-- ==== Sys2Proof/Word.lean ====
section
/-! DEFINITION. The two bit-vector widths the manual works with: the 8-bit byte (rule R50) and the 16-bit
word (rules R6 and R7). Bit 0 is the least significant bit of a value (rule R7). -/

namespace Sys2Proof

/-- A 16-bit register value, address, instruction word or immediate word (rules R6, R7). -/
abbrev Word := BitVec 16

/-- The smallest addressable unit of memory (rule R50). -/
abbrev Byte := BitVec 8

end Sys2Proof
end

