-- ==== Sys2Proof/Config.lean ====
section
/-! DEFINITION. What the manual leaves to an implementation: the named parameters of rule R6, and the free
values behind `CV_NONARITH`. A parameter is plain data and every state carries a set of them, so that a
statement about every state is a statement about every choice of the parameters (log entries 1 to 6). -/

namespace Sys2Proof

/-- `BYTE_ORDER` (rules R6, R52, R53): which byte of a 16-bit word has the lower address. -/
inductive ByteOrder where
  | little
  | big
deriving DecidableEq, Repr

/-- `SHIFT_REG_AMOUNT` (rules R6, R210): how a shift amount is read from a register. -/
inductive ShiftAmountRule where
  /-- the low four bits of Rb -/
  | low4
  /-- the whole of Rb -/
  | full
deriving DecidableEq, Repr

/-- `SGX_REG_FIELD` (rules R6, R91): which field of the word names the operand of `sgx <Ra>`. -/
inductive SgxField where
  | bits6_5
  | bits10_9
deriving DecidableEq, Repr

/-- The twelve instructions whose C and V the manual does not define (rule R35): the first argument of
`CV_NONARITH`. -/
inductive CvInsn where
  | and | or | xor | inv | sgx | lda | ldab | swp | sll | srl | sra | srr
deriving DecidableEq, Repr

/-- `CV_NONARITH` (rules R6, R35): what C and V are after an instruction of `CvInsn`. -/
inductive CvRule where
  /-- the spec's default: C = 0 and V = 0 -/
  | zero
  /-- some total function of the instruction, its result and its operands: `Config.cvNonarith` -/
  | function
  /-- the spec's safe treatment: a fresh draw each time, `Config.cvDraw` -/
  | draw
deriving DecidableEq, Repr

/-- FREE VALUE (log entry 4): the unknown function that `CV_NONARITH` may be, from the instruction, its
result and its operands to the pair (C, V) (rule R35). -/
opaque Config.cvNonarith : CvInsn → Word → List Word → Bool × Bool

/-- FREE VALUE (log entry 4): the pair (C, V) of the n-th draw (rule R35, "a draw (any value)"). -/
opaque Config.cvDraw : Nat → Bool × Bool

/-- The parameters of rule R6 that the core can see. `ORIGIN` is an input of the environment
(`State.start` of Machine/Ops.lean). -/
structure Params where
  /-- `BYTE_ORDER` -/
  byteOrder : ByteOrder
  /-- `MEM_SIZE`: the bytes at addresses 0 to `memSize - 1` are populated (rule R62) -/
  memSize : Nat
  /-- `RESET_PC` (rules R42, R290) -/
  resetPc : Word
  /-- `CV_NONARITH` (rule R35) -/
  cvRule : CvRule
  /-- `SHIFT_REG_AMOUNT` (rule R210) -/
  shiftAmount : ShiftAmountRule
  /-- `SGX_REG_FIELD` (rule R91) -/
  sgxField : SgxField
deriving DecidableEq, Repr

/-- The default of every parameter, as the table of rule R6 gives it. -/
def Params.standard : Params where
  byteOrder := .little
  memSize := 65536
  resetPc := 0x0000
  cvRule := .zero
  shiftAmount := .low4
  sgxField := .bits6_5

end Sys2Proof
end

