-- ==== Sys2Proof/Syntax.lean ====
section
/-! DEFINITION. The instructions, one constructor for each row of the opcode table: the mnemonic followed by
the format of rule R83 (`I8`, `I16`, `RR`, `SHI`, `SHR`; SWP and HCF have one format each). An operand has the
width of its field, so no field can be out of range. Don't-care bits (rule R85) are no operands. -/

namespace Sys2Proof

/-- The four addressable registers (rule R21). -/
inductive Reg where
  /-- the Accumulator, id 00 (rule R22) -/
  | a
  /-- Argument Register X, id 01 (rule R23) -/
  | x
  /-- Argument Register Y, id 10 (rule R23) -/
  | y
  /-- the Stack Pointer, id 11 (rule R24) -/
  | sp
deriving DecidableEq, Repr

/-- The OPAL 1.0 instructions. `ra` is the field of bits 10:9 and `rb` the field of bits 6:5 (rule R82);
`imm16` is the word that follows the instruction word. `sgxRR` keeps both register fields of its word, since
`SGX_REG_FIELD` says which of the two is the operand (rule R91). -/
inductive Instr where
  -- ADD, "Add" (rule R121)
  | addI8 (ra : Reg) (imm8 : Byte)
  | addI16 (ra : Reg) (imm16 : Word)
  | addRR (ra : Reg) (rb : Reg)
  -- SUB, "Subtract" (rule R127)
  | subI8 (ra : Reg) (imm8 : Byte)
  | subI16 (ra : Reg) (imm16 : Word)
  | subRR (ra : Reg) (rb : Reg)
  -- CMP, "Compare" (rule R123)
  | cmpI8 (ra : Reg) (imm8 : Byte)
  | cmpI16 (ra : Reg) (imm16 : Word)
  | cmpRR (ra : Reg) (rb : Reg)
  -- SGX, "Sign Extend Byte" (rules R91, R126)
  | sgxI8 (imm8 : Byte)
  | sgxI16 (imm16 : Word)
  | sgxRR (raCopy : Reg) (rb : Reg)
  -- AND, "Bitwise AND" (rule R122)
  | andI8 (ra : Reg) (imm8 : Byte)
  | andI16 (ra : Reg) (imm16 : Word)
  | andRR (ra : Reg) (rb : Reg)
  -- OR, "Bitwise OR" (rule R125)
  | orI8 (ra : Reg) (imm8 : Byte)
  | orI16 (ra : Reg) (imm16 : Word)
  | orRR (ra : Reg) (rb : Reg)
  -- XOR, "Bitwise XOR" (rule R128)
  | xorI8 (ra : Reg) (imm8 : Byte)
  | xorI16 (ra : Reg) (imm16 : Word)
  | xorRR (ra : Reg) (rb : Reg)
  -- INV, "Bitwise NOT" (rule R124)
  | invI8 (imm8 : Byte)
  | invI16 (imm16 : Word)
  | invRR (rb : Reg)
  -- SLL, "Shift Left Logical" (rule R211)
  | sllSHI (ra : Reg) (amount : BitVec 4)
  | sllSHR (ra : Reg) (rb : Reg)
  -- SRL, "Shift Right Logical" (rule R212)
  | srlSHI (ra : Reg) (amount : BitVec 4)
  | srlSHR (ra : Reg) (rb : Reg)
  -- SRA, "Shift Right Arithmetic" (rule R213)
  | sraSHI (ra : Reg) (amount : BitVec 4)
  | sraSHR (ra : Reg) (rb : Reg)
  -- SRR, "Shift Right Rotate" (rule R214)
  | srrSHI (ra : Reg) (amount : BitVec 4)
  | srrSHR (ra : Reg) (rb : Reg)
  -- SWP, "Swap with Accumulator" (rule R230)
  | swp (ra : Reg)
  -- HCF, "Halt and Catch Fire" (rule R150)
  | hcf
  -- LDA, "Load Address" (rule R191)
  | ldaI8 (ra : Reg) (imm8 : Byte)
  | ldaI16 (ra : Reg) (imm16 : Word)
  | ldaRR (ra : Reg) (rb : Reg)
  -- LDAB, "Load Address Byte" (rule R192)
  | ldabI8 (ra : Reg) (imm8 : Byte)
  | ldabI16 (ra : Reg) (imm16 : Word)
  | ldabRR (ra : Reg) (rb : Reg)
  -- STA, "Store Accumulator" (rule R193)
  | staI8 (ra : Reg) (imm8 : Byte)
  | staI16 (ra : Reg) (imm16 : Word)
  | staRR (ra : Reg) (rb : Reg)
  -- STAB, "Store Accumulator Byte" (rule R194)
  | stabI8 (ra : Reg) (imm8 : Byte)
  | stabI16 (ra : Reg) (imm16 : Word)
  | stabRR (ra : Reg) (rb : Reg)
  -- JNC, "Negative Flag Clear" (rule R156)
  | jncI8 (imm8 : Byte)
  | jncI16 (imm16 : Word)
  | jncRR (rb : Reg)
  -- JNS, "Negative Flag Set" (rule R157)
  | jnsI8 (imm8 : Byte)
  | jnsI16 (imm16 : Word)
  | jnsRR (rb : Reg)
  -- JNE, "Not Equal" (rule R158)
  | jneI8 (imm8 : Byte)
  | jneI16 (imm16 : Word)
  | jneRR (rb : Reg)
  -- JEQ, "Equal" (rule R159)
  | jeqI8 (imm8 : Byte)
  | jeqI16 (imm16 : Word)
  | jeqRR (rb : Reg)
  -- JLO, "Lower Than (Unsigned)" (rule R160)
  | jloI8 (imm8 : Byte)
  | jloI16 (imm16 : Word)
  | jloRR (rb : Reg)
  -- JHS, "Higher Than or Same (Unsigned)" (rule R161)
  | jhsI8 (imm8 : Byte)
  | jhsI16 (imm16 : Word)
  | jhsRR (rb : Reg)
  -- JVC, "Overflow Flag Clear" (rule R162)
  | jvcI8 (imm8 : Byte)
  | jvcI16 (imm16 : Word)
  | jvcRR (rb : Reg)
  -- JVS, "Overflow Flag Set" (rule R163)
  | jvsI8 (imm8 : Byte)
  | jvsI16 (imm16 : Word)
  | jvsRR (rb : Reg)
  -- JGE, "Greater Than or Equal (Signed)" (rule R164)
  | jgeI8 (imm8 : Byte)
  | jgeI16 (imm16 : Word)
  | jgeRR (rb : Reg)
  -- JLT, "Less Than (Signed)" (rule R165)
  | jltI8 (imm8 : Byte)
  | jltI16 (imm16 : Word)
  | jltRR (rb : Reg)
  -- JHI, "Higher Than (Unsigned)" (rule R166)
  | jhiI8 (imm8 : Byte)
  | jhiI16 (imm16 : Word)
  | jhiRR (rb : Reg)
  -- JLS, "Lower Than or Same (Unsigned)" (rule R167)
  | jlsI8 (imm8 : Byte)
  | jlsI16 (imm16 : Word)
  | jlsRR (rb : Reg)
  -- JGT, "Greater Than (Signed)" (rule R168)
  | jgtI8 (imm8 : Byte)
  | jgtI16 (imm16 : Word)
  | jgtRR (rb : Reg)
  -- JLE, "Less Than or Equal (Signed)" (rule R169)
  | jleI8 (imm8 : Byte)
  | jleI16 (imm16 : Word)
  | jleRR (rb : Reg)
  -- JMP, "Unconditional" (rule R170)
  | jmpI8 (imm8 : Byte)
  | jmpI16 (imm16 : Word)
  | jmpRR (rb : Reg)
  -- JAP, "Jump and Push" (rule R152)
  | japI8 (imm8 : Byte)
  | japI16 (imm16 : Word)
  | japRR (rb : Reg)
deriving DecidableEq, Repr

end Sys2Proof
end

