-- ==== Sys2Proof/Decode.lean ====
section
/-! DEFINITION. The decoder and the encoder. The decoder reads the fields of rule R82 out of the instruction
word and follows the major opcode map of rule R86; the encoder builds the words of rule R100 from the first words
of the opcode table. Both go through bytes in the byte order of the machine (rules R52, R53). -/

namespace Sys2Proof

/-! ### Fields of the instruction word (rule R82) -/

/-- The register with a 2-bit id (rule R21). -/
def Reg.ofId (id : BitVec 2) : Reg :=
  match id.toNat with
  | 0 => .a
  | 1 => .x
  | 2 => .y
  | _ => .sp

/-- The 2-bit id of a register (rule R21). -/
def Reg.id : Reg → BitVec 2
  | .a => 0b00
  | .x => 0b01
  | .y => 0b10
  | .sp => 0b11

/-- The major opcode, bits 15:11. -/
def opField (ir : Word) : BitVec 5 := ir.extractLsb' 11 5

/-- The register named by bits 10:9. -/
def raField (ir : Word) : Reg := Reg.ofId (ir.extractLsb' 9 2)

/-- The register named by bits 6:5. -/
def rbField (ir : Word) : Reg := Reg.ofId (ir.extractLsb' 5 2)

/-- Bit 8: 0 says that the second operand is the immediate in the word itself. -/
def modeBit (ir : Word) : Bool := ir.getLsbD 8

/-- Bit 7: when bit 8 is 1, 0 selects the following word and 1 the register of bits 6:5. -/
def selectBit (ir : Word) : Bool := ir.getLsbD 7

/-- The 8-bit immediate, bits 7:0. -/
def imm8Field (ir : Word) : Byte := ir.extractLsb' 0 8

/-- The shift amount of format `SHI`, bits 3:0. -/
def imm4Field (ir : Word) : BitVec 4 := ir.extractLsb' 0 4

/-! ### The decoder -/

/-- Why bytes are no instruction. -/
inductive DecodeError where
  /-- the major opcode 01011, assigned to no instruction (rule R87) -/
  | unassignedOpcode
  /-- fewer bytes than the instruction has (rule R80) -/
  | truncated
deriving DecidableEq, Repr

/-- The choice among the formats `I8`, `I16` and `RR` (rule R83). -/
def selectForm (ir : Word) (i8 i16 rr : Instr) : Instr :=
  if modeBit ir = false then i8 else if selectBit ir = false then i16 else rr

/-- The shifts: the code `pq` in bits 7 and 4 selects the shift, bit 8 the format (rule R92). -/
def decodeShift (ir : Word) : Instr :=
  match modeBit ir, ir.getLsbD 7, ir.getLsbD 4 with
  | false, false, false => .sllSHI (raField ir) (imm4Field ir)
  | true, false, false => .sllSHR (raField ir) (rbField ir)
  | false, false, true => .srlSHI (raField ir) (imm4Field ir)
  | true, false, true => .srlSHR (raField ir) (rbField ir)
  | false, true, false => .sraSHI (raField ir) (imm4Field ir)
  | true, true, false => .sraSHR (raField ir) (rbField ir)
  | false, true, true => .srrSHI (raField ir) (imm4Field ir)
  | true, true, true => .srrSHR (raField ir) (rbField ir)

/-- Rule R86: the instruction of the word `ir` with `imm` in the word after it. Opcode 01011 is refused
(rule R87). -/
def decodeWords (ir imm : Word) : Except DecodeError Instr :=
  match (opField ir).toNat with
  | 0 => .ok (selectForm ir (.addI8 (raField ir) (imm8Field ir)) (.addI16 (raField ir) imm) (.addRR (raField ir) (rbField ir)))
  | 1 => .ok (selectForm ir (.subI8 (raField ir) (imm8Field ir)) (.subI16 (raField ir) imm) (.subRR (raField ir) (rbField ir)))
  | 2 => .ok (selectForm ir (.cmpI8 (raField ir) (imm8Field ir)) (.cmpI16 (raField ir) imm) (.cmpRR (raField ir) (rbField ir)))
  | 3 => .ok (selectForm ir (.sgxI8 (imm8Field ir)) (.sgxI16 imm) (.sgxRR (raField ir) (rbField ir)))
  | 4 => .ok (selectForm ir (.andI8 (raField ir) (imm8Field ir)) (.andI16 (raField ir) imm) (.andRR (raField ir) (rbField ir)))
  | 5 => .ok (selectForm ir (.orI8 (raField ir) (imm8Field ir)) (.orI16 (raField ir) imm) (.orRR (raField ir) (rbField ir)))
  | 6 => .ok (selectForm ir (.xorI8 (raField ir) (imm8Field ir)) (.xorI16 (raField ir) imm) (.xorRR (raField ir) (rbField ir)))
  | 7 => .ok (selectForm ir (.invI8 (imm8Field ir)) (.invI16 imm) (.invRR (rbField ir)))
  | 8 => .ok (decodeShift ir)
  | 9 => .ok (.swp (raField ir))
  | 10 => .ok .hcf
  | 12 => .ok (selectForm ir (.ldaI8 (raField ir) (imm8Field ir)) (.ldaI16 (raField ir) imm) (.ldaRR (raField ir) (rbField ir)))
  | 13 => .ok (selectForm ir (.ldabI8 (raField ir) (imm8Field ir)) (.ldabI16 (raField ir) imm) (.ldabRR (raField ir) (rbField ir)))
  | 14 => .ok (selectForm ir (.staI8 (raField ir) (imm8Field ir)) (.staI16 (raField ir) imm) (.staRR (raField ir) (rbField ir)))
  | 15 => .ok (selectForm ir (.stabI8 (raField ir) (imm8Field ir)) (.stabI16 (raField ir) imm) (.stabRR (raField ir) (rbField ir)))
  | 16 => .ok (selectForm ir (.jncI8 (imm8Field ir)) (.jncI16 imm) (.jncRR (rbField ir)))
  | 17 => .ok (selectForm ir (.jnsI8 (imm8Field ir)) (.jnsI16 imm) (.jnsRR (rbField ir)))
  | 18 => .ok (selectForm ir (.jneI8 (imm8Field ir)) (.jneI16 imm) (.jneRR (rbField ir)))
  | 19 => .ok (selectForm ir (.jeqI8 (imm8Field ir)) (.jeqI16 imm) (.jeqRR (rbField ir)))
  | 20 => .ok (selectForm ir (.jloI8 (imm8Field ir)) (.jloI16 imm) (.jloRR (rbField ir)))
  | 21 => .ok (selectForm ir (.jhsI8 (imm8Field ir)) (.jhsI16 imm) (.jhsRR (rbField ir)))
  | 22 => .ok (selectForm ir (.jvcI8 (imm8Field ir)) (.jvcI16 imm) (.jvcRR (rbField ir)))
  | 23 => .ok (selectForm ir (.jvsI8 (imm8Field ir)) (.jvsI16 imm) (.jvsRR (rbField ir)))
  | 24 => .ok (selectForm ir (.jgeI8 (imm8Field ir)) (.jgeI16 imm) (.jgeRR (rbField ir)))
  | 25 => .ok (selectForm ir (.jltI8 (imm8Field ir)) (.jltI16 imm) (.jltRR (rbField ir)))
  | 26 => .ok (selectForm ir (.jhiI8 (imm8Field ir)) (.jhiI16 imm) (.jhiRR (rbField ir)))
  | 27 => .ok (selectForm ir (.jlsI8 (imm8Field ir)) (.jlsI16 imm) (.jlsRR (rbField ir)))
  | 28 => .ok (selectForm ir (.jgtI8 (imm8Field ir)) (.jgtI16 imm) (.jgtRR (rbField ir)))
  | 29 => .ok (selectForm ir (.jleI8 (imm8Field ir)) (.jleI16 imm) (.jleRR (rbField ir)))
  | 30 => .ok (selectForm ir (.jmpI8 (imm8Field ir)) (.jmpI16 imm) (.jmpRR (rbField ir)))
  | 31 => .ok (selectForm ir (.japI8 (imm8Field ir)) (.japI16 imm) (.japRR (rbField ir)))
  | _ => .error .unassignedOpcode

/-- Rule R81: the major opcodes that have an `I16` form. -/
def hasI16Form (op : BitVec 5) : Bool :=
  decide (op.toNat < 8) || decide (12 ≤ op.toNat)

/-- Rule R81: the instruction is 4 bytes long, told from its first word alone. -/
def isLong (ir : Word) : Bool :=
  modeBit ir && !selectBit ir && hasI16Form (opField ir)

/-- The 16-bit value of two bytes, the one at the lower address first (rule R52). -/
def joinBytes (bo : ByteOrder) (b0 b1 : Byte) : Word :=
  match bo with
  | .little => b1 ++ b0
  | .big => b0 ++ b1

/-- The two bytes of a 16-bit value, the one for the lower address first (rule R52). -/
def splitWord (bo : ByteOrder) (w : Word) : Byte × Byte :=
  match bo with
  | .little => (w.extractLsb' 0 8, w.extractLsb' 8 8)
  | .big => (w.extractLsb' 8 8, w.extractLsb' 0 8)

/-- The instruction at the head of a list of bytes, and the bytes after it. -/
def decode (bo : ByteOrder) : List Byte → Except DecodeError (Instr × List Byte)
  | b0 :: b1 :: rest =>
    let ir := joinBytes bo b0 b1
    if isLong ir then
      match rest with
      | b2 :: b3 :: rest' => (decodeWords ir (joinBytes bo b2 b3)).map (fun i => (i, rest'))
      | _ => .error .truncated
    else (decodeWords ir 0).map (fun i => (i, rest))
  | _ => .error .truncated

/-! ### The encoder (rule R100) -/

/-- A register id in bits 10:9. -/
def raBits (r : Reg) : Word := (r.id.setWidth 16) <<< 9

/-- A register id in bits 6:5. -/
def rbBits (r : Reg) : Word := (r.id.setWidth 16) <<< 5

/-- The first word of an instruction, with 0 in every don't-care bit (rules R85, R100). -/
def Instr.firstWord : Instr → Word
  | .addI8 ra imm8 => 0x0000 ||| raBits ra ||| imm8.setWidth 16
  | .addI16 ra _ => 0x0100 ||| raBits ra
  | .addRR ra rb => 0x0180 ||| raBits ra ||| rbBits rb
  | .subI8 ra imm8 => 0x0800 ||| raBits ra ||| imm8.setWidth 16
  | .subI16 ra _ => 0x0900 ||| raBits ra
  | .subRR ra rb => 0x0980 ||| raBits ra ||| rbBits rb
  | .cmpI8 ra imm8 => 0x1000 ||| raBits ra ||| imm8.setWidth 16
  | .cmpI16 ra _ => 0x1100 ||| raBits ra
  | .cmpRR ra rb => 0x1180 ||| raBits ra ||| rbBits rb
  | .sgxI8 imm8 => 0x1800 ||| imm8.setWidth 16
  | .sgxI16 _ => 0x1900
  | .sgxRR raCopy rb => 0x1980 ||| raBits raCopy ||| rbBits rb
  | .andI8 ra imm8 => 0x2000 ||| raBits ra ||| imm8.setWidth 16
  | .andI16 ra _ => 0x2100 ||| raBits ra
  | .andRR ra rb => 0x2180 ||| raBits ra ||| rbBits rb
  | .orI8 ra imm8 => 0x2800 ||| raBits ra ||| imm8.setWidth 16
  | .orI16 ra _ => 0x2900 ||| raBits ra
  | .orRR ra rb => 0x2980 ||| raBits ra ||| rbBits rb
  | .xorI8 ra imm8 => 0x3000 ||| raBits ra ||| imm8.setWidth 16
  | .xorI16 ra _ => 0x3100 ||| raBits ra
  | .xorRR ra rb => 0x3180 ||| raBits ra ||| rbBits rb
  | .invI8 imm8 => 0x3800 ||| imm8.setWidth 16
  | .invI16 _ => 0x3900
  | .invRR rb => 0x3980 ||| rbBits rb
  | .sllSHI ra amount => 0x4000 ||| raBits ra ||| amount.setWidth 16
  | .sllSHR ra rb => 0x4100 ||| raBits ra ||| rbBits rb
  | .srlSHI ra amount => 0x4010 ||| raBits ra ||| amount.setWidth 16
  | .srlSHR ra rb => 0x4110 ||| raBits ra ||| rbBits rb
  | .sraSHI ra amount => 0x4080 ||| raBits ra ||| amount.setWidth 16
  | .sraSHR ra rb => 0x4180 ||| raBits ra ||| rbBits rb
  | .srrSHI ra amount => 0x4090 ||| raBits ra ||| amount.setWidth 16
  | .srrSHR ra rb => 0x4190 ||| raBits ra ||| rbBits rb
  | .swp ra => 0x4800 ||| raBits ra
  | .hcf => 0x5000
  | .ldaI8 ra imm8 => 0x6000 ||| raBits ra ||| imm8.setWidth 16
  | .ldaI16 ra _ => 0x6100 ||| raBits ra
  | .ldaRR ra rb => 0x6180 ||| raBits ra ||| rbBits rb
  | .ldabI8 ra imm8 => 0x6800 ||| raBits ra ||| imm8.setWidth 16
  | .ldabI16 ra _ => 0x6900 ||| raBits ra
  | .ldabRR ra rb => 0x6980 ||| raBits ra ||| rbBits rb
  | .staI8 ra imm8 => 0x7000 ||| raBits ra ||| imm8.setWidth 16
  | .staI16 ra _ => 0x7100 ||| raBits ra
  | .staRR ra rb => 0x7180 ||| raBits ra ||| rbBits rb
  | .stabI8 ra imm8 => 0x7800 ||| raBits ra ||| imm8.setWidth 16
  | .stabI16 ra _ => 0x7900 ||| raBits ra
  | .stabRR ra rb => 0x7980 ||| raBits ra ||| rbBits rb
  | .jncI8 imm8 => 0x8000 ||| imm8.setWidth 16
  | .jncI16 _ => 0x8100
  | .jncRR rb => 0x8180 ||| rbBits rb
  | .jnsI8 imm8 => 0x8800 ||| imm8.setWidth 16
  | .jnsI16 _ => 0x8900
  | .jnsRR rb => 0x8980 ||| rbBits rb
  | .jneI8 imm8 => 0x9000 ||| imm8.setWidth 16
  | .jneI16 _ => 0x9100
  | .jneRR rb => 0x9180 ||| rbBits rb
  | .jeqI8 imm8 => 0x9800 ||| imm8.setWidth 16
  | .jeqI16 _ => 0x9900
  | .jeqRR rb => 0x9980 ||| rbBits rb
  | .jloI8 imm8 => 0xA000 ||| imm8.setWidth 16
  | .jloI16 _ => 0xA100
  | .jloRR rb => 0xA180 ||| rbBits rb
  | .jhsI8 imm8 => 0xA800 ||| imm8.setWidth 16
  | .jhsI16 _ => 0xA900
  | .jhsRR rb => 0xA980 ||| rbBits rb
  | .jvcI8 imm8 => 0xB000 ||| imm8.setWidth 16
  | .jvcI16 _ => 0xB100
  | .jvcRR rb => 0xB180 ||| rbBits rb
  | .jvsI8 imm8 => 0xB800 ||| imm8.setWidth 16
  | .jvsI16 _ => 0xB900
  | .jvsRR rb => 0xB980 ||| rbBits rb
  | .jgeI8 imm8 => 0xC000 ||| imm8.setWidth 16
  | .jgeI16 _ => 0xC100
  | .jgeRR rb => 0xC180 ||| rbBits rb
  | .jltI8 imm8 => 0xC800 ||| imm8.setWidth 16
  | .jltI16 _ => 0xC900
  | .jltRR rb => 0xC980 ||| rbBits rb
  | .jhiI8 imm8 => 0xD000 ||| imm8.setWidth 16
  | .jhiI16 _ => 0xD100
  | .jhiRR rb => 0xD180 ||| rbBits rb
  | .jlsI8 imm8 => 0xD800 ||| imm8.setWidth 16
  | .jlsI16 _ => 0xD900
  | .jlsRR rb => 0xD980 ||| rbBits rb
  | .jgtI8 imm8 => 0xE000 ||| imm8.setWidth 16
  | .jgtI16 _ => 0xE100
  | .jgtRR rb => 0xE180 ||| rbBits rb
  | .jleI8 imm8 => 0xE800 ||| imm8.setWidth 16
  | .jleI16 _ => 0xE900
  | .jleRR rb => 0xE980 ||| rbBits rb
  | .jmpI8 imm8 => 0xF000 ||| imm8.setWidth 16
  | .jmpI16 _ => 0xF100
  | .jmpRR rb => 0xF180 ||| rbBits rb
  | .japI8 imm8 => 0xF800 ||| imm8.setWidth 16
  | .japI16 _ => 0xF900
  | .japRR rb => 0xF980 ||| rbBits rb

/-- The mnemonic of an instruction, as the opcode table spells it. -/
def Instr.mnemonic : Instr → String
  | .addI8 _ _ | .addI16 _ _ | .addRR _ _ => "add"
  | .subI8 _ _ | .subI16 _ _ | .subRR _ _ => "sub"
  | .cmpI8 _ _ | .cmpI16 _ _ | .cmpRR _ _ => "cmp"
  | .sgxI8 _ | .sgxI16 _ | .sgxRR _ _ => "sgx"
  | .andI8 _ _ | .andI16 _ _ | .andRR _ _ => "and"
  | .orI8 _ _ | .orI16 _ _ | .orRR _ _ => "or"
  | .xorI8 _ _ | .xorI16 _ _ | .xorRR _ _ => "xor"
  | .invI8 _ | .invI16 _ | .invRR _ => "inv"
  | .sllSHI _ _ | .sllSHR _ _ => "sll"
  | .srlSHI _ _ | .srlSHR _ _ => "srl"
  | .sraSHI _ _ | .sraSHR _ _ => "sra"
  | .srrSHI _ _ | .srrSHR _ _ => "srr"
  | .swp _ => "swp"
  | .hcf => "hcf"
  | .ldaI8 _ _ | .ldaI16 _ _ | .ldaRR _ _ => "lda"
  | .ldabI8 _ _ | .ldabI16 _ _ | .ldabRR _ _ => "ldab"
  | .staI8 _ _ | .staI16 _ _ | .staRR _ _ => "sta"
  | .stabI8 _ _ | .stabI16 _ _ | .stabRR _ _ => "stab"
  | .jncI8 _ | .jncI16 _ | .jncRR _ => "jnc"
  | .jnsI8 _ | .jnsI16 _ | .jnsRR _ => "jns"
  | .jneI8 _ | .jneI16 _ | .jneRR _ => "jne"
  | .jeqI8 _ | .jeqI16 _ | .jeqRR _ => "jeq"
  | .jloI8 _ | .jloI16 _ | .jloRR _ => "jlo"
  | .jhsI8 _ | .jhsI16 _ | .jhsRR _ => "jhs"
  | .jvcI8 _ | .jvcI16 _ | .jvcRR _ => "jvc"
  | .jvsI8 _ | .jvsI16 _ | .jvsRR _ => "jvs"
  | .jgeI8 _ | .jgeI16 _ | .jgeRR _ => "jge"
  | .jltI8 _ | .jltI16 _ | .jltRR _ => "jlt"
  | .jhiI8 _ | .jhiI16 _ | .jhiRR _ => "jhi"
  | .jlsI8 _ | .jlsI16 _ | .jlsRR _ => "jls"
  | .jgtI8 _ | .jgtI16 _ | .jgtRR _ => "jgt"
  | .jleI8 _ | .jleI16 _ | .jleRR _ => "jle"
  | .jmpI8 _ | .jmpI16 _ | .jmpRR _ => "jmp"
  | .japI8 _ | .japI16 _ | .japRR _ => "jap"

/-- The formats of rule R83. -/
inductive Format where
  | i8 | i16 | rr | shi | shr | swp | hcf
deriving DecidableEq, Repr

/-- The format of an instruction. -/
def Instr.format : Instr → Format
  | .addI8 _ _ => .i8
  | .addI16 _ _ => .i16
  | .addRR _ _ => .rr
  | .subI8 _ _ => .i8
  | .subI16 _ _ => .i16
  | .subRR _ _ => .rr
  | .cmpI8 _ _ => .i8
  | .cmpI16 _ _ => .i16
  | .cmpRR _ _ => .rr
  | .sgxI8 _ => .i8
  | .sgxI16 _ => .i16
  | .sgxRR _ _ => .rr
  | .andI8 _ _ => .i8
  | .andI16 _ _ => .i16
  | .andRR _ _ => .rr
  | .orI8 _ _ => .i8
  | .orI16 _ _ => .i16
  | .orRR _ _ => .rr
  | .xorI8 _ _ => .i8
  | .xorI16 _ _ => .i16
  | .xorRR _ _ => .rr
  | .invI8 _ => .i8
  | .invI16 _ => .i16
  | .invRR _ => .rr
  | .sllSHI _ _ => .shi
  | .sllSHR _ _ => .shr
  | .srlSHI _ _ => .shi
  | .srlSHR _ _ => .shr
  | .sraSHI _ _ => .shi
  | .sraSHR _ _ => .shr
  | .srrSHI _ _ => .shi
  | .srrSHR _ _ => .shr
  | .swp _ => .swp
  | .hcf => .hcf
  | .ldaI8 _ _ => .i8
  | .ldaI16 _ _ => .i16
  | .ldaRR _ _ => .rr
  | .ldabI8 _ _ => .i8
  | .ldabI16 _ _ => .i16
  | .ldabRR _ _ => .rr
  | .staI8 _ _ => .i8
  | .staI16 _ _ => .i16
  | .staRR _ _ => .rr
  | .stabI8 _ _ => .i8
  | .stabI16 _ _ => .i16
  | .stabRR _ _ => .rr
  | .jncI8 _ => .i8
  | .jncI16 _ => .i16
  | .jncRR _ => .rr
  | .jnsI8 _ => .i8
  | .jnsI16 _ => .i16
  | .jnsRR _ => .rr
  | .jneI8 _ => .i8
  | .jneI16 _ => .i16
  | .jneRR _ => .rr
  | .jeqI8 _ => .i8
  | .jeqI16 _ => .i16
  | .jeqRR _ => .rr
  | .jloI8 _ => .i8
  | .jloI16 _ => .i16
  | .jloRR _ => .rr
  | .jhsI8 _ => .i8
  | .jhsI16 _ => .i16
  | .jhsRR _ => .rr
  | .jvcI8 _ => .i8
  | .jvcI16 _ => .i16
  | .jvcRR _ => .rr
  | .jvsI8 _ => .i8
  | .jvsI16 _ => .i16
  | .jvsRR _ => .rr
  | .jgeI8 _ => .i8
  | .jgeI16 _ => .i16
  | .jgeRR _ => .rr
  | .jltI8 _ => .i8
  | .jltI16 _ => .i16
  | .jltRR _ => .rr
  | .jhiI8 _ => .i8
  | .jhiI16 _ => .i16
  | .jhiRR _ => .rr
  | .jlsI8 _ => .i8
  | .jlsI16 _ => .i16
  | .jlsRR _ => .rr
  | .jgtI8 _ => .i8
  | .jgtI16 _ => .i16
  | .jgtRR _ => .rr
  | .jleI8 _ => .i8
  | .jleI16 _ => .i16
  | .jleRR _ => .rr
  | .jmpI8 _ => .i8
  | .jmpI16 _ => .i16
  | .jmpRR _ => .rr
  | .japI8 _ => .i8
  | .japI16 _ => .i16
  | .japRR _ => .rr

/-- The word after the instruction word, in format `I16` only (rules R80, R83). -/
def Instr.secondWord : Instr → Option Word
  | .addI16 _ imm16 => some imm16
  | .subI16 _ imm16 => some imm16
  | .cmpI16 _ imm16 => some imm16
  | .sgxI16 imm16 => some imm16
  | .andI16 _ imm16 => some imm16
  | .orI16 _ imm16 => some imm16
  | .xorI16 _ imm16 => some imm16
  | .invI16 imm16 => some imm16
  | .ldaI16 _ imm16 => some imm16
  | .ldabI16 _ imm16 => some imm16
  | .staI16 _ imm16 => some imm16
  | .stabI16 _ imm16 => some imm16
  | .jncI16 imm16 => some imm16
  | .jnsI16 imm16 => some imm16
  | .jneI16 imm16 => some imm16
  | .jeqI16 imm16 => some imm16
  | .jloI16 imm16 => some imm16
  | .jhsI16 imm16 => some imm16
  | .jvcI16 imm16 => some imm16
  | .jvsI16 imm16 => some imm16
  | .jgeI16 imm16 => some imm16
  | .jltI16 imm16 => some imm16
  | .jhiI16 imm16 => some imm16
  | .jlsI16 imm16 => some imm16
  | .jgtI16 imm16 => some imm16
  | .jleI16 imm16 => some imm16
  | .jmpI16 imm16 => some imm16
  | .japI16 imm16 => some imm16
  | _ => none

/-- The bytes of a word in memory order. -/
def wordBytes (bo : ByteOrder) (w : Word) : List Byte := [(splitWord bo w).1, (splitWord bo w).2]

/-- The bytes of an instruction in memory order: its word and, in format `I16`, the immediate word. -/
def encode (bo : ByteOrder) (i : Instr) : List Byte :=
  wordBytes bo i.firstWord ++ (i.secondWord.map (wordBytes bo)).getD []

/-- The length of an instruction in bytes (rule R80). -/
def Instr.size (i : Instr) : Nat := if i.format = .i16 then 4 else 2

/-- Bits 10:9 name no operand: INV, the jumps and JAP, and the immediate forms of SGX (rules R85, R90, R91). -/
def Instr.ignoresRa : Instr → Bool
  | .sgxI8 _ => true
  | .sgxI16 _ => true
  | .invI8 _ => true
  | .invI16 _ => true
  | .invRR _ => true
  | .jncI8 _ => true
  | .jncI16 _ => true
  | .jncRR _ => true
  | .jnsI8 _ => true
  | .jnsI16 _ => true
  | .jnsRR _ => true
  | .jneI8 _ => true
  | .jneI16 _ => true
  | .jneRR _ => true
  | .jeqI8 _ => true
  | .jeqI16 _ => true
  | .jeqRR _ => true
  | .jloI8 _ => true
  | .jloI16 _ => true
  | .jloRR _ => true
  | .jhsI8 _ => true
  | .jhsI16 _ => true
  | .jhsRR _ => true
  | .jvcI8 _ => true
  | .jvcI16 _ => true
  | .jvcRR _ => true
  | .jvsI8 _ => true
  | .jvsI16 _ => true
  | .jvsRR _ => true
  | .jgeI8 _ => true
  | .jgeI16 _ => true
  | .jgeRR _ => true
  | .jltI8 _ => true
  | .jltI16 _ => true
  | .jltRR _ => true
  | .jhiI8 _ => true
  | .jhiI16 _ => true
  | .jhiRR _ => true
  | .jlsI8 _ => true
  | .jlsI16 _ => true
  | .jlsRR _ => true
  | .jgtI8 _ => true
  | .jgtI16 _ => true
  | .jgtRR _ => true
  | .jleI8 _ => true
  | .jleI16 _ => true
  | .jleRR _ => true
  | .jmpI8 _ => true
  | .jmpI16 _ => true
  | .jmpRR _ => true
  | .japI8 _ => true
  | .japI16 _ => true
  | .japRR _ => true
  | _ => false

/-- The don't-care bits of an instruction's word, as rule R85 lists them (and bits 10:9 of the immediate
forms of SGX, rule R91). -/
def Instr.dontCare (i : Instr) : Word :=
  let rest : Word :=
    match i.format with
    | .i8 => 0x0000
    | .i16 => 0x007F
    | .rr => 0x001F
    | .shi => 0x0060
    | .shr => 0x000F
    | .swp => 0x01FF
    | .hcf => 0x07FF
  if i.ignoresRa then rest ||| 0x0600 else rest

/-! ### The opcode table's words -/

/-- The bytes, in the machine's byte order, of the `nbits` low bits of `w`: bits 15:0 are the instruction
word, bits 31:16 the word after it. -/
def tableBytes (bo : ByteOrder) (nbits w : Nat) : List Byte :=
  let v := w % 2 ^ nbits
  wordBytes bo (BitVec.ofNat 16 v) ++ wordBytes bo (BitVec.ofNat 16 (v / 65536))

/-- The instruction the decoder reads from a word numbered as the opcode table numbers it. -/
def decodeTableWord (nbits w : Nat) : Option Instr :=
  match decode Params.standard.byteOrder (tableBytes Params.standard.byteOrder nbits w) with
  | .ok (i, _) => some i
  | .error _ => none

end Sys2Proof
end

