-- ==== Sys2Proof/Machine/State.lean ====
section
/-! DEFINITION. The machine's state as plain data, the reasons a step can stop, and the state after reset
(rules R20, R42, R261). -/

namespace Sys2Proof.Machine

/-- The Flags register F: four independent booleans (rule R31). -/
structure Flags where
  /-- "Result was negative" -/
  n : Bool
  /-- "Result was zero" -/
  z : Bool
  /-- "Result carried" -/
  c : Bool
  /-- "Result overflowed" -/
  v : Bool
deriving DecidableEq, Repr

/-- Memory: the listed bytes, addresses strictly rising; the bytes at all other addresses read as
`Memory.unlisted` (rules R40, R50; the form is `Memory.wf` of Machine/Ops.lean). -/
abbrev Memory := List Host.Cell

/-- The state of an OPAL 1.0 core (rule R20), with the parameters of rule R6 and the model's counter of
draws. -/
structure State where
  /-- the Accumulator, id 00 (rule R22) -/
  a : Word
  /-- Argument Register X, id 01 (rule R23) -/
  x : Word
  /-- Argument Register Y, id 10 (rule R23) -/
  y : Word
  /-- the Stack Pointer, id 11 (rule R24) -/
  sp : Word
  /-- the Program Counter; between instructions, the address of the next instruction word (rule R25) -/
  pc : Word
  /-- the Flags register F (rule R31) -/
  flags : Flags
  /-- the memory (rule R40) -/
  mem : Memory
  /-- the parameters; no step changes them (rule R6, log entries 1 to 6) -/
  params : Params
  /-- the MODEL's own: how many draws of C and V have been made (rule R35, log entries 4 and 9) -/
  draws : Nat
deriving DecidableEq, Repr

/-- The model faults of rule R261, the complete list. None is an architectural event: each marks a point
where the manual gives the hardware no behaviour. All are safe: the model stops where the hardware does
something unstated. `pc` is the address of the instruction. -/
inductive Fault where
  /-- `MisalignedFetch`: an instruction fetch with an odd `pc`; raised by `fetch` (rules R29, R55) -/
  | misalignedFetch (pc : Word)
  /-- `IllegalOpcode`: the fetched word has major opcode 01011; raised by `fetch` (rule R87) -/
  | illegalOpcode (pc : Word)
  /-- `UnpopulatedAccess`: an access to the byte `address`, at or above `MEM_SIZE`; raised by `fetch` and by
  LDA, LDAB, STA, STAB and JAP (rule R62) -/
  | unpopulatedAccess (pc address : Word)
deriving DecidableEq, Repr

/-- Why an instruction has no meaning. -/
inductive Refusal where
  /-- an instruction the model has not reached; raised by a refused arm of `exec` (there is none); safe -/
  | notModelled (mnemonic : String)
deriving DecidableEq, Repr

/-- The outcome of a step or of an instruction. -/
abbrev Outcome := Host.Outcome State Fault Refusal

/-- The machine right after reset, nothing loaded (rules R42, R290): `pc` is `RESET_PC` and the parameters
have the spec's defaults (rule R6). DESIGN CHOICE, unsafe (log entries 7 to 10): the spec leaves the registers,
the flags and the memory outside the image unspecified, and the model has zero there. -/
def State.reset : State where
  a := 0
  x := 0
  y := 0
  sp := 0
  pc := Params.standard.resetPc
  flags := { n := false, z := false, c := false, v := false }
  mem := []
  params := Params.standard
  draws := 0

end Sys2Proof.Machine
end

