-- ==== Sys2Proof/Machine/Ops.lean ====
section
/-! DEFINITION. The named operations over memory, registers and the program counter. OPAL has no exception to
take and none to return from (rules R260, R264, R266): an access the manual gives no behaviour answers with the
byte address it fails at, and `accessing` turns that into the model fault of rule R261. -/

namespace Sys2Proof.Machine

/-! ### Bytes of memory -/

/-- What a byte that is not listed reads as. DESIGN CHOICE, unsafe (log entry 10): the spec leaves memory
outside the image unspecified (rules R42, R290). -/
def Memory.unlisted : Byte := 0x00

/-- The byte at an address. -/
def Memory.read : Memory → Nat → Byte
  | [], _ => Memory.unlisted
  | (k, b) :: rest, a => if k = a then b else Memory.read rest a

/-- Store a byte, keeping the canonical form: the entry goes where its address belongs, and the unlisted
value has no entry. -/
def Memory.write : Memory → Nat → Byte → Memory
  | [], a, b => if b = Memory.unlisted then [] else [(a, b)]
  | (k, c) :: rest, a, b =>
    if a < k then
      if b = Memory.unlisted then (k, c) :: rest else (a, b) :: (k, c) :: rest
    else if a = k then
      if b = Memory.unlisted then rest else (a, b) :: rest
    else (k, c) :: Memory.write rest a b

/-- Addresses strictly rising from at least `lo`, each a 16-bit address, and no entry equal to what an
unlisted address reads as. -/
def Memory.canonicalFrom : Nat → Memory → Bool
  | _, [] => true
  | lo, (k, b) :: rest =>
    decide (lo ≤ k) && decide (k < 65536) && decide (b ≠ Memory.unlisted) && Memory.canonicalFrom (k + 1) rest

/-- The canonical form of a memory. -/
def Memory.wf (m : Memory) : Bool := Memory.canonicalFrom 0 m

/-- The byte at an address, populated or not: the reader's view of memory (rule R50). -/
def State.byteAt (s : State) (addr : Word) : Byte := s.mem.read addr.toNat

/-- Put a byte at an address, populated or not. -/
def State.putByte (s : State) (addr : Word) (b : Byte) : State :=
  { s with mem := s.mem.write addr.toNat b }

/-- Put bytes at consecutive addresses (rule R56: the address after 0xFFFF is 0x0000). -/
def State.putBytes (s : State) (addr : Word) : List Byte → State
  | [] => s
  | b :: rest => (s.putByte addr b).putBytes (addr + 1#16) rest

/-! ### Memory accesses (rules R52, R62): the value or the new state, or the unpopulated byte address -/

/-- A byte is populated when its address is below `MEM_SIZE` (rule R62). -/
def State.populated (s : State) (addr : Word) : Bool := decide (addr.toNat < s.params.memSize)

/-- `MemRead(addr, 1)`. -/
def State.readByte (s : State) (addr : Word) : Except Word Byte :=
  if s.populated addr then .ok (s.byteAt addr) else .error addr

/-- Both bytes of a 2-byte access are populated, or the first that is not (rule R62, log entry 13). -/
def State.checkWord (s : State) (addr : Word) : Except Word Unit :=
  if s.populated addr then
    if s.populated (addr + 1#16) then .ok () else .error (addr + 1#16)
  else .error addr

/-- `MemRead(addr, 2)`: the bytes at `addr` and `addr + 1` (modulo 2^16), in the byte order; no alignment is
needed (rules R52, R54, R56). -/
def State.readWord (s : State) (addr : Word) : Except Word Word :=
  (s.checkWord addr).map fun _ => joinBytes s.params.byteOrder (s.byteAt addr) (s.byteAt (addr + 1#16))

/-- `MemWrite(addr, 1, v)`. -/
def State.writeByte (s : State) (addr : Word) (b : Byte) : Except Word State :=
  if s.populated addr then .ok (s.putByte addr b) else .error addr

/-- `MemWrite(addr, 2, v)`. Where one of the two bytes is unpopulated neither is stored: no state change of a
faulting step is kept (rule R261). -/
def State.writeWord (s : State) (addr : Word) (w : Word) : Except Word State :=
  (s.checkWord addr).map fun _ => s.putBytes addr (wordBytes s.params.byteOrder w)

/-- Go on with the answer of an access made by an instruction under execution, or stop with
`UnpopulatedAccess`. `pc` is already past the instruction word, so the instruction stands at `pc - 2`
(rules R26, R261). -/
def accessing {α : Type} (s : State) (answer : Except Word α) (go : α → Outcome) : Outcome :=
  match answer with
  | .ok value => go value
  | .error addr => .fault (.unpopulatedAccess (s.pc - 2#16) addr)

/-! ### Registers (rule R21) -/

/-- `x[r]`. -/
def State.reg (s : State) : Reg → Word
  | .a => s.a
  | .x => s.x
  | .y => s.y
  | .sp => s.sp

/-- `x[r] <- w`. -/
def State.setReg (s : State) (r : Reg) (w : Word) : State :=
  match r with
  | .a => { s with a := w }
  | .x => { s with x := w }
  | .y => { s with y := w }
  | .sp => { s with sp := w }

/-- `pc <- w`. -/
def State.setPc (s : State) (w : Word) : State := { s with pc := w }

/-- `pc <- (pc + 2) mod 65536`, the increment of rules R26 and R27. -/
def State.advance (s : State) : State := s.setPc (s.pc + 2#16)

/-! ### The start of a run (rules R275, R290, R291) -/

/-- The state from which a run starts: any parameters, any values in what reset leaves unspecified, and the
image of the environment placed at `origin` in memory whose other bytes are `mem`.
DESIGN CHOICE (log entry 29): rule R291 is silent on an image that runs past 0xFFFF. `imageWellFormed` refuses such an
image; this function, which is total, goes on with its bytes at 0x0000, and no statement speaks of that case. -/
def State.start (p : Params) (a x y sp : Word) (f : Flags) (mem : Memory) (origin : Word) (image : List Byte) :
    State :=
  ({ a, x, y, sp, pc := p.resetPc, flags := f, mem, params := p, draws := 0 } : State).putBytes origin image

end Sys2Proof.Machine
end

