-- ==== Sys2Proof/Machine/Flags.lean ====
section
/-! DEFINITION. The flag computations: `add16`, `sub16`, `setNZ` and `setCV_nonarith` of rule R10, and the
conditions of the jumps (rule R155). -/

namespace Sys2Proof.Machine

/-- What the adder answers: the 16-bit result, the carry and the signed overflow. -/
structure Sum where
  r : Word
  c : Bool
  v : Bool
deriving DecidableEq, Repr

/-- `add16(a, b)` (rules R10, R33): the exact sum, narrowed; C is the carry out of bit 15; V is set when the
operands have one sign and the result the other. -/
def add16 (a b : Word) : Sum :=
  let s := a.toNat + b.toNat
  let r : Word := BitVec.ofNat 16 s
  { r, c := decide (65536 ≤ s), v := (a.msb == b.msb) && (r.msb != a.msb) }

/-- `sub16(a, b)` (rules R10, R34): the sum of `a`, the complement of `b` and 1; C is its carry, "no borrow". -/
def sub16 (a b : Word) : Sum :=
  let s := a.toNat + (65535 - b.toNat) + 1
  let r : Word := BitVec.ofNat 16 s
  { r, c := decide (65536 ≤ s), v := (a.msb != b.msb) && (r.msb != a.msb) }

/-- `not16(a)` (rule R10). -/
def not16 (a : Word) : Word := BitVec.ofNat 16 (65535 - a.toNat)

/-- The flags of a result `r` with carry `c` and overflow `v`: `setNZ(r)`, and C and V as given
(rules R10, R32; bit 15 is `msb`). -/
def flagsOf (r : Word) (c v : Bool) : Flags := { n := r.msb, z := decide (r = 0#16), c, v }

/-- Set all four flags from the adder's answer (rules R32 to R34). -/
def State.setSumFlags (s : State) (x : Sum) : State := { s with flags := flagsOf x.r x.c x.v }

/-- `CV_NONARITH(insn, result, operands)` (rule R35): the parameter's default, the unknown function, or the
next draw. -/
def nonarithCV (s : State) (insn : CvInsn) (r : Word) (operands : List Word) : Bool × Bool :=
  match s.params.cvRule with
  | .zero => (false, false)
  | .function => Config.cvNonarith insn r operands
  | .draw => Config.cvDraw s.draws

/-- `setNZ(r) ; setCV_nonarith(insn, r, operands)` (rules R10, R32, R35). -/
def State.setResultFlags (s : State) (insn : CvInsn) (r : Word) (operands : List Word) : State :=
  let cv := nonarithCV s insn r operands
  { s with flags := flagsOf r cv.1 cv.2, draws := s.draws + 1 }

/-- The fifteen jump suffixes (rule R155), in jump-code order. -/
inductive Cond where
  | nc | ns | ne | eq | lo | hs | vc | vs | ge | lt | hi | ls | gt | le | mp
deriving DecidableEq, Repr

/-- `cond(cc)`, the condition table of rule R155: when the jump is taken. -/
def condHolds (f : Flags) : Cond → Bool
  | .nc => !f.n
  | .ns => f.n
  | .ne => !f.z
  | .eq => f.z
  | .lo => !f.c
  | .hs => f.c
  | .vc => !f.v
  | .vs => f.v
  | .ge => f.n == f.v
  | .lt => f.n != f.v
  | .hi => f.c && !f.z
  | .ls => !f.c || f.z
  | .gt => f.n == f.v && !f.z
  | .le => f.n != f.v || f.z
  | .mp => true

end Sys2Proof.Machine
end

