-- ==== Sys2Proof/Machine/Operands.lean ====
section
/-! DEFINITION. The operand forms: the second operand of the ALU and memory families (rule R83), the operand
of `sgx <Ra>` (rule R91), the amount of a shift (rule R210), the address of a load or store (rule R190) and the
target of a jump (rule R153). In every one `pc` is already the address of the instruction plus 2 (rule R26), and
an `I16` form carries its immediate word, read by the fetch (log entry 24). -/

namespace Sys2Proof.Machine

/-- `zext_16` of rule R9. -/
def zext16 (b : Byte) : Word := b.setWidth 16

/-- `sext_16` of rule R9. -/
def sext16 (b : Byte) : Word := b.signExtend 16

/-- The three forms of a second operand (rule R83). -/
inductive Operand where
  | imm8 (k : Byte)
  | imm16 (k : Word)
  | reg (r : Reg)
deriving DecidableEq, Repr

/-- The value `operandB()` returns (rule R83): an 8-bit immediate is zero-extended (rule R84). -/
def operandValue (s : State) : Operand → Word
  | .imm8 k => zext16 k
  | .imm16 k => k
  | .reg r => s.reg r

/-- What `operandB()` does to `pc` (rules R27, R83): the `I16` form advances it past the immediate word. -/
def afterOperand (s : State) : Operand → State
  | .imm8 _ => s
  | .imm16 _ => s.advance
  | .reg _ => s

/-- The register that `sgx <Ra>` reads: bits 6:5, or bits 10:9 where `SGX_REG_FIELD` says so (rule R91). -/
def sgxRegister (s : State) (raCopy rb : Reg) : Reg :=
  match s.params.sgxField with
  | .bits6_5 => rb
  | .bits10_9 => raCopy

/-- A shift amount read from a register (rule R210, `SHIFT_REG_AMOUNT`). -/
def shiftRegAmount (s : State) (rb : Reg) : Nat :=
  match s.params.shiftAmount with
  | .low4 => (s.reg rb).toNat % 16
  | .full => (s.reg rb).toNat

/-- The effective address of a load or store: base register plus operand, modulo 2^16 (rule R190). -/
def effectiveAddress (s : State) (ra : Reg) (o : Operand) : Word := s.reg ra + operandValue s o

/-- The three target forms of a jump or JAP (rule R153). -/
inductive Target where
  | relative (offset : Byte)
  | absolute (address : Word)
  | register (r : Reg)
deriving DecidableEq, Repr

/-- The address a taken jump goes to (rule R153): the relative form adds the sign-extended byte offset to
the incremented `pc`. -/
def targetAddress (s : State) : Target → Word
  | .relative k => s.pc + sext16 k
  | .absolute k => k
  | .register r => s.reg r

/-- The address of the instruction after the jump, past its immediate word if it has one: where an untaken
jump goes on (rules R154, R172) and what JAP stores (rule R152). -/
def afterTarget (s : State) : Target → Word
  | .relative _ => s.pc
  | .absolute _ => s.pc + 2#16
  | .register _ => s.pc

end Sys2Proof.Machine
end

