-- ==== Sys2Proof/Machine/Arithmetic.lean ====
section
/-! DEFINITION. ADD, SUB and CMP in their three forms (rules R120, R121, R123, R127). -/

namespace Sys2Proof.Machine

/-- A <- the adder's result on Ra and the operand, all four flags from the adder. Both operands are read before
A is written (rule R120). -/
def sumToA (sum : Word → Word → Sum) (ra : Reg) (o : Operand) (s : State) : Outcome :=
  let x := sum (s.reg ra) (operandValue s o)
  .next (((afterOperand s o).setReg .a x.r).setSumFlags x)

/-- The flags of the adder on Ra and the operand; no register is written (rule R123). -/
def sumToFlags (sum : Word → Word → Sum) (ra : Reg) (o : Operand) (s : State) : Outcome :=
  .next ((afterOperand s o).setSumFlags (sum (s.reg ra) (operandValue s o)))

/-- `add Ra,#imm8` (rule R121). -/
def execAddI8 (ra : Reg) (imm8 : Byte) (s : State) : Outcome :=
  sumToA add16 ra (.imm8 imm8) s

/-- `add Ra,#imm16` (rule R121). -/
def execAddI16 (ra : Reg) (imm16 : Word) (s : State) : Outcome :=
  sumToA add16 ra (.imm16 imm16) s

/-- `add Ra,Rb` (rule R121). -/
def execAddRR (ra : Reg) (rb : Reg) (s : State) : Outcome :=
  sumToA add16 ra (.reg rb) s

/-- `sub Ra,#imm8` (rule R127). -/
def execSubI8 (ra : Reg) (imm8 : Byte) (s : State) : Outcome :=
  sumToA sub16 ra (.imm8 imm8) s

/-- `sub Ra,#imm16` (rule R127). -/
def execSubI16 (ra : Reg) (imm16 : Word) (s : State) : Outcome :=
  sumToA sub16 ra (.imm16 imm16) s

/-- `sub Ra,Rb` (rule R127). -/
def execSubRR (ra : Reg) (rb : Reg) (s : State) : Outcome :=
  sumToA sub16 ra (.reg rb) s

/-- `cmp Ra,#imm8` (rule R123). -/
def execCmpI8 (ra : Reg) (imm8 : Byte) (s : State) : Outcome :=
  sumToFlags sub16 ra (.imm8 imm8) s

/-- `cmp Ra,#imm16` (rule R123). -/
def execCmpI16 (ra : Reg) (imm16 : Word) (s : State) : Outcome :=
  sumToFlags sub16 ra (.imm16 imm16) s

/-- `cmp Ra,Rb` (rule R123). -/
def execCmpRR (ra : Reg) (rb : Reg) (s : State) : Outcome :=
  sumToFlags sub16 ra (.reg rb) s

end Sys2Proof.Machine
end

