-- ==== Sys2Proof/Machine/Control.lean ====
section
/-! DEFINITION. HCF, the fifteen jumps and JAP (rules R150 to R172). None writes A or F. -/

namespace Sys2Proof.Machine

/-- HCF: `pc <- (pc - 2) mod 65536`, again the address of this HCF (rule R150). -/
def execHcf (s : State) : Outcome := .next (s.setPc (s.pc - 2#16))

/-- Rule R154: a taken jump sets `pc` to the target; an untaken one goes on after the jump. Nothing else is
written. -/
def jump (c : Cond) (t : Target) (s : State) : Outcome :=
  .next (s.setPc (if condHolds s.flags c then targetAddress s t else afterTarget s t))

/-- Rule R152: the address of the following instruction goes to the word at SP, which itself is not changed,
and `pc` to the target; both are read before the store. -/
def jumpAndPush (t : Target) (s : State) : Outcome :=
  accessing s (s.writeWord s.sp (afterTarget s t)) fun u => .next (u.setPc (targetAddress s t))

/-- `jnc #relative` (rule R156). -/
def execJncI8 (imm8 : Byte) (s : State) : Outcome :=
  jump .nc (.relative imm8) s

/-- `jnc #absolute` (rule R156). -/
def execJncI16 (imm16 : Word) (s : State) : Outcome :=
  jump .nc (.absolute imm16) s

/-- `jnc Ra` (rule R156). -/
def execJncRR (rb : Reg) (s : State) : Outcome :=
  jump .nc (.register rb) s

/-- `jns #relative` (rule R157). -/
def execJnsI8 (imm8 : Byte) (s : State) : Outcome :=
  jump .ns (.relative imm8) s

/-- `jns #absolute` (rule R157). -/
def execJnsI16 (imm16 : Word) (s : State) : Outcome :=
  jump .ns (.absolute imm16) s

/-- `jns Ra` (rule R157). -/
def execJnsRR (rb : Reg) (s : State) : Outcome :=
  jump .ns (.register rb) s

/-- `jne #relative` (rule R158). -/
def execJneI8 (imm8 : Byte) (s : State) : Outcome :=
  jump .ne (.relative imm8) s

/-- `jne #absolute` (rule R158). -/
def execJneI16 (imm16 : Word) (s : State) : Outcome :=
  jump .ne (.absolute imm16) s

/-- `jne Ra` (rule R158). -/
def execJneRR (rb : Reg) (s : State) : Outcome :=
  jump .ne (.register rb) s

/-- `jeq #relative` (rule R159). -/
def execJeqI8 (imm8 : Byte) (s : State) : Outcome :=
  jump .eq (.relative imm8) s

/-- `jeq #absolute` (rule R159). -/
def execJeqI16 (imm16 : Word) (s : State) : Outcome :=
  jump .eq (.absolute imm16) s

/-- `jeq Ra` (rule R159). -/
def execJeqRR (rb : Reg) (s : State) : Outcome :=
  jump .eq (.register rb) s

/-- `jlo #relative` (rule R160). -/
def execJloI8 (imm8 : Byte) (s : State) : Outcome :=
  jump .lo (.relative imm8) s

/-- `jlo #absolute` (rule R160). -/
def execJloI16 (imm16 : Word) (s : State) : Outcome :=
  jump .lo (.absolute imm16) s

/-- `jlo Ra` (rule R160). -/
def execJloRR (rb : Reg) (s : State) : Outcome :=
  jump .lo (.register rb) s

/-- `jhs #relative` (rule R161). -/
def execJhsI8 (imm8 : Byte) (s : State) : Outcome :=
  jump .hs (.relative imm8) s

/-- `jhs #absolute` (rule R161). -/
def execJhsI16 (imm16 : Word) (s : State) : Outcome :=
  jump .hs (.absolute imm16) s

/-- `jhs Ra` (rule R161). -/
def execJhsRR (rb : Reg) (s : State) : Outcome :=
  jump .hs (.register rb) s

/-- `jvc #relative` (rule R162). -/
def execJvcI8 (imm8 : Byte) (s : State) : Outcome :=
  jump .vc (.relative imm8) s

/-- `jvc #absolute` (rule R162). -/
def execJvcI16 (imm16 : Word) (s : State) : Outcome :=
  jump .vc (.absolute imm16) s

/-- `jvc Ra` (rule R162). -/
def execJvcRR (rb : Reg) (s : State) : Outcome :=
  jump .vc (.register rb) s

/-- `jvs #relative` (rule R163). -/
def execJvsI8 (imm8 : Byte) (s : State) : Outcome :=
  jump .vs (.relative imm8) s

/-- `jvs #absolute` (rule R163). -/
def execJvsI16 (imm16 : Word) (s : State) : Outcome :=
  jump .vs (.absolute imm16) s

/-- `jvs Ra` (rule R163). -/
def execJvsRR (rb : Reg) (s : State) : Outcome :=
  jump .vs (.register rb) s

/-- `jge #relative` (rule R164). -/
def execJgeI8 (imm8 : Byte) (s : State) : Outcome :=
  jump .ge (.relative imm8) s

/-- `jge #absolute` (rule R164). -/
def execJgeI16 (imm16 : Word) (s : State) : Outcome :=
  jump .ge (.absolute imm16) s

/-- `jge Ra` (rule R164). -/
def execJgeRR (rb : Reg) (s : State) : Outcome :=
  jump .ge (.register rb) s

/-- `jlt #relative` (rule R165). -/
def execJltI8 (imm8 : Byte) (s : State) : Outcome :=
  jump .lt (.relative imm8) s

/-- `jlt #absolute` (rule R165). -/
def execJltI16 (imm16 : Word) (s : State) : Outcome :=
  jump .lt (.absolute imm16) s

/-- `jlt Ra` (rule R165). -/
def execJltRR (rb : Reg) (s : State) : Outcome :=
  jump .lt (.register rb) s

/-- `jhi #relative` (rule R166). -/
def execJhiI8 (imm8 : Byte) (s : State) : Outcome :=
  jump .hi (.relative imm8) s

/-- `jhi #absolute` (rule R166). -/
def execJhiI16 (imm16 : Word) (s : State) : Outcome :=
  jump .hi (.absolute imm16) s

/-- `jhi Ra` (rule R166). -/
def execJhiRR (rb : Reg) (s : State) : Outcome :=
  jump .hi (.register rb) s

/-- `jls #relative` (rule R167). -/
def execJlsI8 (imm8 : Byte) (s : State) : Outcome :=
  jump .ls (.relative imm8) s

/-- `jls #absolute` (rule R167). -/
def execJlsI16 (imm16 : Word) (s : State) : Outcome :=
  jump .ls (.absolute imm16) s

/-- `jls Ra` (rule R167). -/
def execJlsRR (rb : Reg) (s : State) : Outcome :=
  jump .ls (.register rb) s

/-- `jgt #relative` (rule R168). -/
def execJgtI8 (imm8 : Byte) (s : State) : Outcome :=
  jump .gt (.relative imm8) s

/-- `jgt #absolute` (rule R168). -/
def execJgtI16 (imm16 : Word) (s : State) : Outcome :=
  jump .gt (.absolute imm16) s

/-- `jgt Ra` (rule R168). -/
def execJgtRR (rb : Reg) (s : State) : Outcome :=
  jump .gt (.register rb) s

/-- `jle #relative` (rule R169). -/
def execJleI8 (imm8 : Byte) (s : State) : Outcome :=
  jump .le (.relative imm8) s

/-- `jle #absolute` (rule R169). -/
def execJleI16 (imm16 : Word) (s : State) : Outcome :=
  jump .le (.absolute imm16) s

/-- `jle Ra` (rule R169). -/
def execJleRR (rb : Reg) (s : State) : Outcome :=
  jump .le (.register rb) s

/-- `jmp #relative` (rule R170). -/
def execJmpI8 (imm8 : Byte) (s : State) : Outcome :=
  jump .mp (.relative imm8) s

/-- `jmp #absolute` (rule R170). -/
def execJmpI16 (imm16 : Word) (s : State) : Outcome :=
  jump .mp (.absolute imm16) s

/-- `jmp Ra` (rule R170). -/
def execJmpRR (rb : Reg) (s : State) : Outcome :=
  jump .mp (.register rb) s

/-- `jap #relative` (rule R152). -/
def execJapI8 (imm8 : Byte) (s : State) : Outcome :=
  jumpAndPush (.relative imm8) s

/-- `jap #absolute` (rule R152). -/
def execJapI16 (imm16 : Word) (s : State) : Outcome :=
  jumpAndPush (.absolute imm16) s

/-- `jap Ra` (rule R152). -/
def execJapRR (rb : Reg) (s : State) : Outcome :=
  jumpAndPush (.register rb) s

end Sys2Proof.Machine
end

