-- ==== Sys2Proof/Machine/LoadStore.lean ====
section
/-! DEFINITION. LDA, LDAB, STA and STAB in their three forms (rules R190 to R194). The destination of a load
is A, whatever Ra is (conflict C3). -/

namespace Sys2Proof.Machine

/-- A <- the loaded value; N and Z from it, C and V by `CV_NONARITH` of the address. -/
def loadedToA (insn : CvInsn) (ea : Word) (o : Operand) (s : State) (r : Word) : Outcome :=
  .next (((afterOperand s o).setReg .a r).setResultFlags insn r [ea])

/-- LDA: the word at the effective address (rule R191). -/
def loadWord (ra : Reg) (o : Operand) (s : State) : Outcome :=
  let ea := effectiveAddress s ra o
  accessing s (s.readWord ea) fun w => loadedToA .lda ea o s w

/-- LDAB: the byte at the effective address, zero-extended (rule R192). -/
def loadByte (ra : Reg) (o : Operand) (s : State) : Outcome :=
  let ea := effectiveAddress s ra o
  accessing s (s.readByte ea) fun b => loadedToA .ldab ea o s (zext16 b)

/-- STA: A to the word at the effective address; no flag changes (rule R193). -/
def storeWord (ra : Reg) (o : Operand) (s : State) : Outcome :=
  accessing s (s.writeWord (effectiveAddress s ra o) s.a) fun t => .next (afterOperand t o)

/-- STAB: the low byte of A to the byte at the effective address; no flag changes (rule R194). -/
def storeByte (ra : Reg) (o : Operand) (s : State) : Outcome :=
  accessing s (s.writeByte (effectiveAddress s ra o) (s.a.extractLsb' 0 8)) fun t => .next (afterOperand t o)

/-- `lda [Ra,#imm8]` (rule R191). -/
def execLdaI8 (ra : Reg) (imm8 : Byte) (s : State) : Outcome :=
  loadWord ra (.imm8 imm8) s

/-- `lda [Ra,#imm16]` (rule R191). -/
def execLdaI16 (ra : Reg) (imm16 : Word) (s : State) : Outcome :=
  loadWord ra (.imm16 imm16) s

/-- `lda [Ra,Rb]` (rule R191). -/
def execLdaRR (ra : Reg) (rb : Reg) (s : State) : Outcome :=
  loadWord ra (.reg rb) s

/-- `ldab [Ra,#imm8]` (rule R192). -/
def execLdabI8 (ra : Reg) (imm8 : Byte) (s : State) : Outcome :=
  loadByte ra (.imm8 imm8) s

/-- `ldab [Ra,#imm16]` (rule R192). -/
def execLdabI16 (ra : Reg) (imm16 : Word) (s : State) : Outcome :=
  loadByte ra (.imm16 imm16) s

/-- `ldab [Ra,Rb]` (rule R192). -/
def execLdabRR (ra : Reg) (rb : Reg) (s : State) : Outcome :=
  loadByte ra (.reg rb) s

/-- `sta [Ra,#imm8]` (rule R193). -/
def execStaI8 (ra : Reg) (imm8 : Byte) (s : State) : Outcome :=
  storeWord ra (.imm8 imm8) s

/-- `sta [Ra,#imm16]` (rule R193). -/
def execStaI16 (ra : Reg) (imm16 : Word) (s : State) : Outcome :=
  storeWord ra (.imm16 imm16) s

/-- `sta [Ra,Rb]` (rule R193). -/
def execStaRR (ra : Reg) (rb : Reg) (s : State) : Outcome :=
  storeWord ra (.reg rb) s

/-- `stab [Ra,#imm8]` (rule R194). -/
def execStabI8 (ra : Reg) (imm8 : Byte) (s : State) : Outcome :=
  storeByte ra (.imm8 imm8) s

/-- `stab [Ra,#imm16]` (rule R194). -/
def execStabI16 (ra : Reg) (imm16 : Word) (s : State) : Outcome :=
  storeByte ra (.imm16 imm16) s

/-- `stab [Ra,Rb]` (rule R194). -/
def execStabRR (ra : Reg) (rb : Reg) (s : State) : Outcome :=
  storeByte ra (.reg rb) s

end Sys2Proof.Machine
end

