-- ==== Sys2Proof/Machine/Logic.lean ====
section
/-! DEFINITION. AND, OR, XOR, INV and SGX in their three forms (rules R120, R122, R124, R125, R126, R128). -/

namespace Sys2Proof.Machine

/-- A <- `f` of Ra and the operand; N and Z from the result, C and V by `CV_NONARITH` (rules R32, R35). -/
def logicToA (insn : CvInsn) (f : Word → Word → Word) (ra : Reg) (o : Operand) (s : State) : Outcome :=
  let a := s.reg ra
  let b := operandValue s o
  let r := f a b
  .next (((afterOperand s o).setReg .a r).setResultFlags insn r [a, b])

/-- A <- `f` of the one operand; flags as above. -/
def unaryToA (insn : CvInsn) (f : Word → Word) (o : Operand) (s : State) : Outcome :=
  let b := operandValue s o
  let r := f b
  .next (((afterOperand s o).setReg .a r).setResultFlags insn r [b])

/-- The low byte of a word, sign-extended: "replaces bits 8 through 15 with the value of bit 7" (rule R126). -/
def signExtendByte (b : Word) : Word := sext16 (b.extractLsb' 0 8)

/-- `and Ra,#imm8` (rule R122). -/
def execAndI8 (ra : Reg) (imm8 : Byte) (s : State) : Outcome :=
  logicToA .and (· &&& ·) ra (.imm8 imm8) s

/-- `and Ra,#imm16` (rule R122). -/
def execAndI16 (ra : Reg) (imm16 : Word) (s : State) : Outcome :=
  logicToA .and (· &&& ·) ra (.imm16 imm16) s

/-- `and Ra,Rb` (rule R122). -/
def execAndRR (ra : Reg) (rb : Reg) (s : State) : Outcome :=
  logicToA .and (· &&& ·) ra (.reg rb) s

/-- `or Ra,#imm8` (rule R125). -/
def execOrI8 (ra : Reg) (imm8 : Byte) (s : State) : Outcome :=
  logicToA .or (· ||| ·) ra (.imm8 imm8) s

/-- `or Ra,#imm16` (rule R125). -/
def execOrI16 (ra : Reg) (imm16 : Word) (s : State) : Outcome :=
  logicToA .or (· ||| ·) ra (.imm16 imm16) s

/-- `or Ra,Rb` (rule R125). -/
def execOrRR (ra : Reg) (rb : Reg) (s : State) : Outcome :=
  logicToA .or (· ||| ·) ra (.reg rb) s

/-- `xor Ra,#imm8` (rule R128). -/
def execXorI8 (ra : Reg) (imm8 : Byte) (s : State) : Outcome :=
  logicToA .xor (· ^^^ ·) ra (.imm8 imm8) s

/-- `xor Ra,#imm16` (rule R128). -/
def execXorI16 (ra : Reg) (imm16 : Word) (s : State) : Outcome :=
  logicToA .xor (· ^^^ ·) ra (.imm16 imm16) s

/-- `xor Ra,Rb` (rule R128). -/
def execXorRR (ra : Reg) (rb : Reg) (s : State) : Outcome :=
  logicToA .xor (· ^^^ ·) ra (.reg rb) s

/-- `inv #imm8` (rule R124). -/
def execInvI8 (imm8 : Byte) (s : State) : Outcome :=
  unaryToA .inv not16 (.imm8 imm8) s

/-- `inv #imm16` (rule R124). -/
def execInvI16 (imm16 : Word) (s : State) : Outcome :=
  unaryToA .inv not16 (.imm16 imm16) s

/-- `inv Rb` (rule R124). -/
def execInvRR (rb : Reg) (s : State) : Outcome :=
  unaryToA .inv not16 (.reg rb) s

/-- `sgx #imm8` (rule R126). -/
def execSgxI8 (imm8 : Byte) (s : State) : Outcome :=
  unaryToA .sgx signExtendByte (.imm8 imm8) s

/-- `sgx #imm16` (rule R126). -/
def execSgxI16 (imm16 : Word) (s : State) : Outcome :=
  unaryToA .sgx signExtendByte (.imm16 imm16) s

/-- `sgx Ra` (rules R91, R126): `SGX_REG_FIELD` says which of the two fields names the register. -/
def execSgxRR (raCopy rb : Reg) (s : State) : Outcome :=
  unaryToA .sgx signExtendByte (.reg (sgxRegister s raCopy rb)) s

end Sys2Proof.Machine
end

