-- ==== Sys2Proof/Machine/Shift.lean ====
section
/-! DEFINITION. SLL, SRL, SRA and SRR with an immediate and with a register amount (rules R210 to R214). -/

namespace Sys2Proof.Machine

/-- `r <- (v * 2^n) mod 65536` (rule R211). -/
def sll16 (v : Word) (n : Nat) : Word := BitVec.ofNat 16 (v.toNat * 2 ^ n)

/-- `r <- floor(v / 2^n)`, `v` unsigned (rule R212). -/
def srl16 (v : Word) (n : Nat) : Word := BitVec.ofNat 16 (v.toNat / 2 ^ n)

/-- `r <- floor(sint(v) / 2^n) mod 65536` (rule R213). -/
def sra16 (v : Word) (n : Nat) : Word := BitVec.ofInt 16 (v.toInt / 2 ^ n)

/-- Rotation of the 16 bits to the right by `n mod 16` (rules R210, R214). -/
def srr16 (v : Word) (n : Nat) : Word :=
  if n % 16 = 0 then v
  else BitVec.ofNat 16 (v.toNat / 2 ^ (n % 16) + v.toNat * 2 ^ (16 - n % 16))

/-- A <- Ra shifted by `n`; N and Z from the result, C and V by `CV_NONARITH` of the value and the amount
(rule R210). -/
def shiftToA (insn : CvInsn) (shift : Word → Nat → Word) (ra : Reg) (n : Nat) (s : State) : Outcome :=
  let v := s.reg ra
  let r := shift v n
  .next ((s.setReg .a r).setResultFlags insn r [v, BitVec.ofNat 16 n])

/-- `sll Ra,#amount` (rules R210, R211). -/
def execSllSHI (ra : Reg) (amount : BitVec 4) (s : State) : Outcome :=
  shiftToA .sll sll16 ra amount.toNat s

/-- `sll Ra,Rb` (rules R210, R211). -/
def execSllSHR (ra rb : Reg) (s : State) : Outcome :=
  shiftToA .sll sll16 ra (shiftRegAmount s rb) s

/-- `srl Ra,#amount` (rules R210, R212). -/
def execSrlSHI (ra : Reg) (amount : BitVec 4) (s : State) : Outcome :=
  shiftToA .srl srl16 ra amount.toNat s

/-- `srl Ra,Rb` (rules R210, R212). -/
def execSrlSHR (ra rb : Reg) (s : State) : Outcome :=
  shiftToA .srl srl16 ra (shiftRegAmount s rb) s

/-- `sra Ra,#amount` (rules R210, R213). -/
def execSraSHI (ra : Reg) (amount : BitVec 4) (s : State) : Outcome :=
  shiftToA .sra sra16 ra amount.toNat s

/-- `sra Ra,Rb` (rules R210, R213). -/
def execSraSHR (ra rb : Reg) (s : State) : Outcome :=
  shiftToA .sra sra16 ra (shiftRegAmount s rb) s

/-- `srr Ra,#amount` (rules R210, R214). -/
def execSrrSHI (ra : Reg) (amount : BitVec 4) (s : State) : Outcome :=
  shiftToA .srr srr16 ra amount.toNat s

/-- `srr Ra,Rb` (rules R210, R214). -/
def execSrrSHR (ra rb : Reg) (s : State) : Outcome :=
  shiftToA .srr srr16 ra (shiftRegAmount s rb) s

end Sys2Proof.Machine
end

