-- ==== Sys2Proof/Machine/Swap.lean ====
section
/-! DEFINITION. SWP (rule R230). -/

namespace Sys2Proof.Machine

/-- `swp Ra`: A and Ra exchange their values, both read before either is written; N and Z from the new A, C and
V by `CV_NONARITH` (rule R230). -/
def execSwp (ra : Reg) (s : State) : Outcome :=
  let oldA := s.a
  let oldR := s.reg ra
  .next (((s.setReg .a oldR).setReg ra oldA).setResultFlags .swp oldR [oldA, oldR])

end Sys2Proof.Machine
end

