-- ==== Sys2Proof/Machine/Dispatch.lean ====
section
/-! DEFINITION. `execute(ir)` of rule R26: each instruction's meaning, one arm per row of the opcode table, on
the state whose `pc` is already past the instruction word. -/

namespace Sys2Proof.Machine

def exec (i : Instr) (s : State) : Host.Outcome State Fault Refusal :=
  match i with
  | .addI8 ra imm8 => Sys2Proof.Machine.execAddI8 ra imm8 s
  | .addI16 ra imm16 => Sys2Proof.Machine.execAddI16 ra imm16 s
  | .addRR ra rb => Sys2Proof.Machine.execAddRR ra rb s
  | .subI8 ra imm8 => Sys2Proof.Machine.execSubI8 ra imm8 s
  | .subI16 ra imm16 => Sys2Proof.Machine.execSubI16 ra imm16 s
  | .subRR ra rb => Sys2Proof.Machine.execSubRR ra rb s
  | .cmpI8 ra imm8 => Sys2Proof.Machine.execCmpI8 ra imm8 s
  | .cmpI16 ra imm16 => Sys2Proof.Machine.execCmpI16 ra imm16 s
  | .cmpRR ra rb => Sys2Proof.Machine.execCmpRR ra rb s
  | .sgxI8 imm8 => Sys2Proof.Machine.execSgxI8 imm8 s
  | .sgxI16 imm16 => Sys2Proof.Machine.execSgxI16 imm16 s
  | .sgxRR raCopy rb => Sys2Proof.Machine.execSgxRR raCopy rb s
  | .andI8 ra imm8 => Sys2Proof.Machine.execAndI8 ra imm8 s
  | .andI16 ra imm16 => Sys2Proof.Machine.execAndI16 ra imm16 s
  | .andRR ra rb => Sys2Proof.Machine.execAndRR ra rb s
  | .orI8 ra imm8 => Sys2Proof.Machine.execOrI8 ra imm8 s
  | .orI16 ra imm16 => Sys2Proof.Machine.execOrI16 ra imm16 s
  | .orRR ra rb => Sys2Proof.Machine.execOrRR ra rb s
  | .xorI8 ra imm8 => Sys2Proof.Machine.execXorI8 ra imm8 s
  | .xorI16 ra imm16 => Sys2Proof.Machine.execXorI16 ra imm16 s
  | .xorRR ra rb => Sys2Proof.Machine.execXorRR ra rb s
  | .invI8 imm8 => Sys2Proof.Machine.execInvI8 imm8 s
  | .invI16 imm16 => Sys2Proof.Machine.execInvI16 imm16 s
  | .invRR rb => Sys2Proof.Machine.execInvRR rb s
  | .sllSHI ra amount => Sys2Proof.Machine.execSllSHI ra amount s
  | .sllSHR ra rb => Sys2Proof.Machine.execSllSHR ra rb s
  | .srlSHI ra amount => Sys2Proof.Machine.execSrlSHI ra amount s
  | .srlSHR ra rb => Sys2Proof.Machine.execSrlSHR ra rb s
  | .sraSHI ra amount => Sys2Proof.Machine.execSraSHI ra amount s
  | .sraSHR ra rb => Sys2Proof.Machine.execSraSHR ra rb s
  | .srrSHI ra amount => Sys2Proof.Machine.execSrrSHI ra amount s
  | .srrSHR ra rb => Sys2Proof.Machine.execSrrSHR ra rb s
  | .swp ra => Sys2Proof.Machine.execSwp ra s
  | .hcf => Sys2Proof.Machine.execHcf s
  | .ldaI8 ra imm8 => Sys2Proof.Machine.execLdaI8 ra imm8 s
  | .ldaI16 ra imm16 => Sys2Proof.Machine.execLdaI16 ra imm16 s
  | .ldaRR ra rb => Sys2Proof.Machine.execLdaRR ra rb s
  | .ldabI8 ra imm8 => Sys2Proof.Machine.execLdabI8 ra imm8 s
  | .ldabI16 ra imm16 => Sys2Proof.Machine.execLdabI16 ra imm16 s
  | .ldabRR ra rb => Sys2Proof.Machine.execLdabRR ra rb s
  | .staI8 ra imm8 => Sys2Proof.Machine.execStaI8 ra imm8 s
  | .staI16 ra imm16 => Sys2Proof.Machine.execStaI16 ra imm16 s
  | .staRR ra rb => Sys2Proof.Machine.execStaRR ra rb s
  | .stabI8 ra imm8 => Sys2Proof.Machine.execStabI8 ra imm8 s
  | .stabI16 ra imm16 => Sys2Proof.Machine.execStabI16 ra imm16 s
  | .stabRR ra rb => Sys2Proof.Machine.execStabRR ra rb s
  | .jncI8 imm8 => Sys2Proof.Machine.execJncI8 imm8 s
  | .jncI16 imm16 => Sys2Proof.Machine.execJncI16 imm16 s
  | .jncRR rb => Sys2Proof.Machine.execJncRR rb s
  | .jnsI8 imm8 => Sys2Proof.Machine.execJnsI8 imm8 s
  | .jnsI16 imm16 => Sys2Proof.Machine.execJnsI16 imm16 s
  | .jnsRR rb => Sys2Proof.Machine.execJnsRR rb s
  | .jneI8 imm8 => Sys2Proof.Machine.execJneI8 imm8 s
  | .jneI16 imm16 => Sys2Proof.Machine.execJneI16 imm16 s
  | .jneRR rb => Sys2Proof.Machine.execJneRR rb s
  | .jeqI8 imm8 => Sys2Proof.Machine.execJeqI8 imm8 s
  | .jeqI16 imm16 => Sys2Proof.Machine.execJeqI16 imm16 s
  | .jeqRR rb => Sys2Proof.Machine.execJeqRR rb s
  | .jloI8 imm8 => Sys2Proof.Machine.execJloI8 imm8 s
  | .jloI16 imm16 => Sys2Proof.Machine.execJloI16 imm16 s
  | .jloRR rb => Sys2Proof.Machine.execJloRR rb s
  | .jhsI8 imm8 => Sys2Proof.Machine.execJhsI8 imm8 s
  | .jhsI16 imm16 => Sys2Proof.Machine.execJhsI16 imm16 s
  | .jhsRR rb => Sys2Proof.Machine.execJhsRR rb s
  | .jvcI8 imm8 => Sys2Proof.Machine.execJvcI8 imm8 s
  | .jvcI16 imm16 => Sys2Proof.Machine.execJvcI16 imm16 s
  | .jvcRR rb => Sys2Proof.Machine.execJvcRR rb s
  | .jvsI8 imm8 => Sys2Proof.Machine.execJvsI8 imm8 s
  | .jvsI16 imm16 => Sys2Proof.Machine.execJvsI16 imm16 s
  | .jvsRR rb => Sys2Proof.Machine.execJvsRR rb s
  | .jgeI8 imm8 => Sys2Proof.Machine.execJgeI8 imm8 s
  | .jgeI16 imm16 => Sys2Proof.Machine.execJgeI16 imm16 s
  | .jgeRR rb => Sys2Proof.Machine.execJgeRR rb s
  | .jltI8 imm8 => Sys2Proof.Machine.execJltI8 imm8 s
  | .jltI16 imm16 => Sys2Proof.Machine.execJltI16 imm16 s
  | .jltRR rb => Sys2Proof.Machine.execJltRR rb s
  | .jhiI8 imm8 => Sys2Proof.Machine.execJhiI8 imm8 s
  | .jhiI16 imm16 => Sys2Proof.Machine.execJhiI16 imm16 s
  | .jhiRR rb => Sys2Proof.Machine.execJhiRR rb s
  | .jlsI8 imm8 => Sys2Proof.Machine.execJlsI8 imm8 s
  | .jlsI16 imm16 => Sys2Proof.Machine.execJlsI16 imm16 s
  | .jlsRR rb => Sys2Proof.Machine.execJlsRR rb s
  | .jgtI8 imm8 => Sys2Proof.Machine.execJgtI8 imm8 s
  | .jgtI16 imm16 => Sys2Proof.Machine.execJgtI16 imm16 s
  | .jgtRR rb => Sys2Proof.Machine.execJgtRR rb s
  | .jleI8 imm8 => Sys2Proof.Machine.execJleI8 imm8 s
  | .jleI16 imm16 => Sys2Proof.Machine.execJleI16 imm16 s
  | .jleRR rb => Sys2Proof.Machine.execJleRR rb s
  | .jmpI8 imm8 => Sys2Proof.Machine.execJmpI8 imm8 s
  | .jmpI16 imm16 => Sys2Proof.Machine.execJmpI16 imm16 s
  | .jmpRR rb => Sys2Proof.Machine.execJmpRR rb s
  | .japI8 imm8 => Sys2Proof.Machine.execJapI8 imm8 s
  | .japI16 imm16 => Sys2Proof.Machine.execJapI16 imm16 s
  | .japRR rb => Sys2Proof.Machine.execJapRR rb s

end Sys2Proof.Machine
end

