-- ==== Sys2Proof/Machine/Fetch.lean ====
section
/-! DEFINITION. The fetch of an instruction, the first half of the instruction cycle (rule R26), with the
model faults in the order of rule R263; and the placing of an instruction where the fetch finds it. -/

namespace Sys2Proof.Machine

/-- What a fetch answers: a fault, or an instruction and the state in which it executes. -/
inductive Fetched where
  | fault (f : Fault)
  | instr (i : Instr) (s : State)
deriving DecidableEq, Repr

/-- The immediate word of an `I16` form, at the incremented `pc` (rule R83); 0 for a form without one. -/
def fetchImmediate (s : State) (ir : Word) : Except Word Word :=
  if isLong ir then s.readWord (s.pc + 2#16) else .ok 0

/-- Rule R26: the word at `pc`, its immediate word if it has one, and the instruction they are; it executes
with `pc` past the instruction word. The faults come in the order of rule R263: a word of opcode 01011 has no
immediate word (rule R81), so `IllegalOpcode` comes before the immediate fetch could fail. -/
def fetch (s : State) : Fetched :=
  if s.pc.getLsbD 0 then .fault (.misalignedFetch s.pc)
  else
    match s.readWord s.pc with
    | .error addr => .fault (.unpopulatedAccess s.pc addr)
    | .ok ir =>
      match fetchImmediate s ir with
      | .error addr => .fault (.unpopulatedAccess s.pc addr)
      | .ok imm =>
        match decodeWords ir imm with
        | .error _ => .fault (.illegalOpcode s.pc)
        | .ok i => .instr i s.advance

/-- The two words of an instruction numbered as the opcode table numbers them, placed at `pc`. -/
def placeTableWord (s : State) (nbits w : Nat) : State :=
  s.putBytes s.pc (tableBytes s.params.byteOrder nbits w)

end Sys2Proof.Machine
end

