-- ==== Sys2Proof/Machine/Step.lean ====
section
/-! DEFINITION. One step of the core (rule R26). -/

namespace Sys2Proof.Machine

/-- Rule R26: fetch, then execute with the incremented `pc`. A faulting step has no next state (rule R261). -/
def step (s : State) : Host.Outcome State Fault Refusal :=
  match fetch s with
  | .fault f => .fault f
  | .instr i t => exec i t

/-- The state with an instruction of the opcode table placed where the next step fetches it. -/
def State.withFetchWord (s : State) (nbits w : Nat) : State := placeTableWord s nbits w

end Sys2Proof.Machine
end

