-- ==== Sys2Proof/Machine/Assembler.lean ====
section
/-! DEFINITION. The assembler's side of the spec, none of which the core sees (rule R240's file): the choices
among the forms of an instruction (rules R91, R95, R96, R97, R210), the nine standard macros (rules R240 to R249)
and the source text of an instruction (rules R93 to R95). Directives and labels are informative (rule R98). -/

namespace Sys2Proof.Machine

/-! ### Choices of the assembler -/

/-- Rule R95: an omitted register is the Accumulator. -/
def asmReg (written : Option Reg) : Reg := written.getD .a

/-- Rule R96: an immediate of 0 to 255 takes the `I8` form, a larger one the `I16` form. -/
def asmImmediate (value : Word) : Operand :=
  if value.toNat ≤ 255 then .imm8 (value.extractLsb' 0 8) else .imm16 value

/-- Rule R97: a jump at `addr` to `target` takes the relative form when the target, less the address of the
jump plus 2, lies in -128 to 127, and the absolute form otherwise. -/
def asmTarget (addr target : Word) : Target :=
  let d : Int := (target.toNat : Int) - ((addr + 2#16).toNat : Int)
  if -128 ≤ d ∧ d ≤ 127 then .relative (BitVec.ofInt 8 d) else .absolute target

/-- Rules R92, R210: only the low four bits of a written shift amount are encoded. -/
def asmShiftAmount (written : Word) : BitVec 4 := written.extractLsb' 0 4

/-- Rules R91, R100: the assembler writes the register of `sgx <Ra>` in both fields. -/
def asmSgx (r : Reg) : Instr := .sgxRR r r

/-- `jlo` to a target, the assembler's choice of form made. -/
def asmJlo : Target → Instr
  | .relative k => .jloI8 k
  | .absolute k => .jloI16 k
  | .register r => .jloRR r

/-- `jhs` to a target, the assembler's choice of form made. -/
def asmJhs : Target → Instr
  | .relative k => .jhsI8 k
  | .absolute k => .jhsI16 k
  | .register r => .jhsRR r

/-- `jne` to a target, the assembler's choice of form made. -/
def asmJne : Target → Instr
  | .relative k => .jneI8 k
  | .absolute k => .jneI16 k
  | .register r => .jneRR r

/-- `jeq` to a target, the assembler's choice of form made. -/
def asmJeq : Target → Instr
  | .relative k => .jeqI8 k
  | .absolute k => .jeqI16 k
  | .register r => .jeqRR r

/-- `jmp` to a target, the assembler's choice of form made. -/
def asmJmp : Target → Instr
  | .relative k => .jmpI8 k
  | .absolute k => .jmpI16 k
  | .register r => .jmpRR r

/-- `jap` to a target, the assembler's choice of form made. -/
def asmJap : Target → Instr
  | .relative k => .japI8 k
  | .absolute k => .japI16 k
  | .register r => .japRR r

/-! ### The standard macros -/

/-- The macros of rule R249, with the form of a jump target already chosen. -/
inductive StdMacro where
  | dec
  | inc
  | jcc (t : Target)
  | jcs (t : Target)
  | jzc (t : Target)
  | jzs (t : Target)
  | ldi (k : Word)
  | ldib (v : Byte)
  | ret
deriving DecidableEq, Repr

/-- The instructions a macro is replaced by (rules R240 to R249). `ldib` is the `I8` form of INV with the 8-bit
complement, so it leaves `0xFF00 | v` in A (rule R247, conflict C10); `ret` reads the word at SP + 2 (rule R248,
conflict C13). -/
def expandMacro : StdMacro → List Instr
  | .dec => [.subI8 .a 1]
  | .inc => [.addI8 .a 1]
  | .jcc t => [asmJlo t]
  | .jcs t => [asmJhs t]
  | .jzc t => [asmJne t]
  | .jzs t => [asmJeq t]
  | .ldi k => [.invI16 (~~~k)]
  | .ldib v => [.invI8 (~~~v)]
  | .ret => [.ldaI8 .sp 2, .jmpRR .a]

/-- The words of a list of instructions, as the assembler lays them out (rule R100). -/
def assembledWords (is : List Instr) : List Word :=
  is.flatMap fun i => i.firstWord :: i.secondWord.toList

/-! ### Source text -/

/-- A register's name (rule R93). -/
def regText : Reg → String
  | .a => "A"
  | .x => "X"
  | .y => "Y"
  | .sp => "SP"

/-- An immediate (rule R93); the manual shows decimal numbers only. -/
def immText (n : Nat) : String := "#" ++ n.repr

/-- The absolute target of the relative form at `addr` (rules R97, R153). -/
def relativeText (addr : Word) (offset : Byte) : String := immText (addr + 2#16 + sext16 offset).toNat

/-- A mnemonic and its one operand (rule R94). -/
def oneText (mnemonic operand : String) : String := mnemonic ++ " " ++ operand

/-- A mnemonic and its two operands (rule R94), the register written out. -/
def twoText (mnemonic : String) (ra : Reg) (operand : String) : String :=
  mnemonic ++ " " ++ regText ra ++ "," ++ operand

/-- A load or store (rules R93, R94). -/
def memText (mnemonic : String) (ra : Reg) (operand : String) : String :=
  mnemonic ++ " [" ++ regText ra ++ "," ++ operand ++ "]"

/-- The source text of the instruction at `addr` (rules R93 to R95). A jump is written with its absolute target
(rule R97). -/
def sourceText (addr : Word) : Instr → String
  | .addI8 ra imm8 => twoText "add" ra (immText imm8.toNat)
  | .addI16 ra imm16 => twoText "add" ra (immText imm16.toNat)
  | .addRR ra rb => twoText "add" ra (regText rb)
  | .subI8 ra imm8 => twoText "sub" ra (immText imm8.toNat)
  | .subI16 ra imm16 => twoText "sub" ra (immText imm16.toNat)
  | .subRR ra rb => twoText "sub" ra (regText rb)
  | .cmpI8 ra imm8 => twoText "cmp" ra (immText imm8.toNat)
  | .cmpI16 ra imm16 => twoText "cmp" ra (immText imm16.toNat)
  | .cmpRR ra rb => twoText "cmp" ra (regText rb)
  | .sgxI8 imm8 => oneText "sgx" (immText imm8.toNat)
  | .sgxI16 imm16 => oneText "sgx" (immText imm16.toNat)
  | .sgxRR _ rb => oneText "sgx" (regText rb)
  | .andI8 ra imm8 => twoText "and" ra (immText imm8.toNat)
  | .andI16 ra imm16 => twoText "and" ra (immText imm16.toNat)
  | .andRR ra rb => twoText "and" ra (regText rb)
  | .orI8 ra imm8 => twoText "or" ra (immText imm8.toNat)
  | .orI16 ra imm16 => twoText "or" ra (immText imm16.toNat)
  | .orRR ra rb => twoText "or" ra (regText rb)
  | .xorI8 ra imm8 => twoText "xor" ra (immText imm8.toNat)
  | .xorI16 ra imm16 => twoText "xor" ra (immText imm16.toNat)
  | .xorRR ra rb => twoText "xor" ra (regText rb)
  | .invI8 imm8 => oneText "inv" (immText imm8.toNat)
  | .invI16 imm16 => oneText "inv" (immText imm16.toNat)
  | .invRR rb => oneText "inv" (regText rb)
  | .sllSHI ra amount => twoText "sll" ra (immText amount.toNat)
  | .sllSHR ra rb => twoText "sll" ra (regText rb)
  | .srlSHI ra amount => twoText "srl" ra (immText amount.toNat)
  | .srlSHR ra rb => twoText "srl" ra (regText rb)
  | .sraSHI ra amount => twoText "sra" ra (immText amount.toNat)
  | .sraSHR ra rb => twoText "sra" ra (regText rb)
  | .srrSHI ra amount => twoText "srr" ra (immText amount.toNat)
  | .srrSHR ra rb => twoText "srr" ra (regText rb)
  | .swp ra => oneText "swp" (regText ra)
  | .hcf => "hcf"
  | .ldaI8 ra imm8 => memText "lda" ra (immText imm8.toNat)
  | .ldaI16 ra imm16 => memText "lda" ra (immText imm16.toNat)
  | .ldaRR ra rb => memText "lda" ra (regText rb)
  | .ldabI8 ra imm8 => memText "ldab" ra (immText imm8.toNat)
  | .ldabI16 ra imm16 => memText "ldab" ra (immText imm16.toNat)
  | .ldabRR ra rb => memText "ldab" ra (regText rb)
  | .staI8 ra imm8 => memText "sta" ra (immText imm8.toNat)
  | .staI16 ra imm16 => memText "sta" ra (immText imm16.toNat)
  | .staRR ra rb => memText "sta" ra (regText rb)
  | .stabI8 ra imm8 => memText "stab" ra (immText imm8.toNat)
  | .stabI16 ra imm16 => memText "stab" ra (immText imm16.toNat)
  | .stabRR ra rb => memText "stab" ra (regText rb)
  | .jncI8 imm8 => oneText "jnc" (relativeText addr imm8)
  | .jncI16 imm16 => oneText "jnc" (immText imm16.toNat)
  | .jncRR rb => oneText "jnc" (regText rb)
  | .jnsI8 imm8 => oneText "jns" (relativeText addr imm8)
  | .jnsI16 imm16 => oneText "jns" (immText imm16.toNat)
  | .jnsRR rb => oneText "jns" (regText rb)
  | .jneI8 imm8 => oneText "jne" (relativeText addr imm8)
  | .jneI16 imm16 => oneText "jne" (immText imm16.toNat)
  | .jneRR rb => oneText "jne" (regText rb)
  | .jeqI8 imm8 => oneText "jeq" (relativeText addr imm8)
  | .jeqI16 imm16 => oneText "jeq" (immText imm16.toNat)
  | .jeqRR rb => oneText "jeq" (regText rb)
  | .jloI8 imm8 => oneText "jlo" (relativeText addr imm8)
  | .jloI16 imm16 => oneText "jlo" (immText imm16.toNat)
  | .jloRR rb => oneText "jlo" (regText rb)
  | .jhsI8 imm8 => oneText "jhs" (relativeText addr imm8)
  | .jhsI16 imm16 => oneText "jhs" (immText imm16.toNat)
  | .jhsRR rb => oneText "jhs" (regText rb)
  | .jvcI8 imm8 => oneText "jvc" (relativeText addr imm8)
  | .jvcI16 imm16 => oneText "jvc" (immText imm16.toNat)
  | .jvcRR rb => oneText "jvc" (regText rb)
  | .jvsI8 imm8 => oneText "jvs" (relativeText addr imm8)
  | .jvsI16 imm16 => oneText "jvs" (immText imm16.toNat)
  | .jvsRR rb => oneText "jvs" (regText rb)
  | .jgeI8 imm8 => oneText "jge" (relativeText addr imm8)
  | .jgeI16 imm16 => oneText "jge" (immText imm16.toNat)
  | .jgeRR rb => oneText "jge" (regText rb)
  | .jltI8 imm8 => oneText "jlt" (relativeText addr imm8)
  | .jltI16 imm16 => oneText "jlt" (immText imm16.toNat)
  | .jltRR rb => oneText "jlt" (regText rb)
  | .jhiI8 imm8 => oneText "jhi" (relativeText addr imm8)
  | .jhiI16 imm16 => oneText "jhi" (immText imm16.toNat)
  | .jhiRR rb => oneText "jhi" (regText rb)
  | .jlsI8 imm8 => oneText "jls" (relativeText addr imm8)
  | .jlsI16 imm16 => oneText "jls" (immText imm16.toNat)
  | .jlsRR rb => oneText "jls" (regText rb)
  | .jgtI8 imm8 => oneText "jgt" (relativeText addr imm8)
  | .jgtI16 imm16 => oneText "jgt" (immText imm16.toNat)
  | .jgtRR rb => oneText "jgt" (regText rb)
  | .jleI8 imm8 => oneText "jle" (relativeText addr imm8)
  | .jleI16 imm16 => oneText "jle" (immText imm16.toNat)
  | .jleRR rb => oneText "jle" (regText rb)
  | .jmpI8 imm8 => oneText "jmp" (relativeText addr imm8)
  | .jmpI16 imm16 => oneText "jmp" (immText imm16.toNat)
  | .jmpRR rb => oneText "jmp" (regText rb)
  | .japI8 imm8 => oneText "jap" (relativeText addr imm8)
  | .japI16 imm16 => oneText "jap" (immText imm16.toNat)
  | .japRR rb => oneText "jap" (regText rb)

end Sys2Proof.Machine
end

