-- ==== Sys2Proof/WellFormed.lean ====
section
/-! DEFINITION. What must hold of a term before a rule speaks of it. The operands of an instruction have the
widths of their fields, so every `Instr` is a word of the opcode map; what can be ill-formed is a choice of the
parameters (rule R6), an image (rule R291), and an instruction as the spec's assembler writes it (rule R91). -/

namespace Sys2Proof

/-- `MEM_SIZE` lies in 2 to 65,536 (rule R62; the collected parameters of 92_eei_decisions.md). -/
def Params.memSizeInRange (p : Params) : Bool := decide (2 ≤ p.memSize ∧ p.memSize ≤ 65536)

/-- `MEM_SIZE` is even (the collected parameters of 92_eei_decisions.md). -/
def Params.memSizeEven (p : Params) : Bool := p.memSize % 2 == 0

/-- `RESET_PC` is even (rules R42, R290). -/
def Params.resetPcEven (p : Params) : Bool := !p.resetPc.getLsbD 0

/-- `RESET_PC` lies below `MEM_SIZE` (rule R290). -/
def Params.resetPcPopulated (p : Params) : Bool := decide (p.resetPc.toNat < p.memSize)

/-- A choice of the parameters that rule R6 and its decisions allow. -/
def Params.wellFormed (p : Params) : Bool :=
  p.memSizeInRange && p.memSizeEven && p.resetPcEven && p.resetPcPopulated

/-- An image may be loaded at `origin`: the origin is even (rule R291) and every byte of the image lies in populated
memory (rule R62).
DESIGN CHOICE (log entry 29): rule R291 does not say whether an image may run past 0xFFFF and go on at 0x0000; such
an image is not well-formed here, since its addresses do not stay below `MEM_SIZE`. -/
def imageWellFormed (p : Params) (origin : Word) (image : List Byte) : Bool :=
  !origin.getLsbD 0 && decide (origin.toNat + image.length ≤ p.memSize)

/-- The instruction is one the spec's assembler produces: its register-form SGX names one register in both
fields (rules R91, R100). The core executes the others too. -/
def Instr.assemblerForm : Instr → Bool
  | .sgxRR raCopy rb => decide (raCopy = rb)
  | _ => true

end Sys2Proof
end

