-- ==== Sys2Proof/Safety.lean ====
section
/-! DEFINITION. What a run comes to, in the terms claims use: `Halted` and the end of a run (rule R265), and
the states a run can be in. -/

namespace Sys2Proof.Machine

/-- Rule R265: `pc` is even and the word at `pc` has the major opcode of HCF. The word must be populated, or
there is nothing to read. -/
def halted (s : State) : Bool :=
  !s.pc.getLsbD 0 &&
    match s.readWord s.pc with
    | .ok ir => decide (opField ir = 0b01010)
    | .error _ => false

/-- What a run under fuel has come to (rule R265): the first `Halted` state, a model fault, a refusal, or a
state from which it goes on. -/
inductive RunEnd where
  | halted (s : State)
  | fault (f : Fault)
  | refused (r : Refusal)
  | unfinished (s : State)
deriving DecidableEq, Repr

/-- Run to the first `Halted` state, at most `fuel` steps. -/
def runToHalt : Nat → State → RunEnd
  | 0, s => if halted s then .halted s else .unfinished s
  | fuel + 1, s =>
    if halted s then .halted s
    else
      match step s with
      | .next t => runToHalt fuel t
      | .fault f => .fault f
      | .refused r => .refused r

/-- Every listed byte of memory lies in populated memory (rule R62). -/
def memInside (s : State) : Bool := s.mem.all fun cell => decide (cell.1 < s.params.memSize)

/-- A state a run can be in: its parameters are allowed, its memory is in canonical form and holds nothing
outside the populated addresses. -/
def State.sound (s : State) : Bool := s.params.wellFormed && s.mem.wf && memInside s

/-! ### The terms in which a claim says what an instruction does -/

/-- The outcome is a next state with the property `P`. -/
def Completes (o : Outcome) (P : State → Prop) : Prop := ∃ t, o = .next t ∧ P t

/-- Every byte of memory reads as before. -/
def KeepsMemory (s t : State) : Prop := ∀ addr : Word, t.byteAt addr = s.byteAt addr

/-- X, Y and SP are as before. -/
def KeepsArguments (s t : State) : Prop := t.x = s.x ∧ t.y = s.y ∧ t.sp = s.sp

/-- The flags and the counter of draws are as before. -/
def KeepsFlags (s t : State) : Prop := t.flags = s.flags ∧ t.draws = s.draws

/-- The parameters are as before. -/
def KeepsParams (s t : State) : Prop := t.params = s.params

/-- Both bytes of a 2-byte access at `addr` are populated (rule R62). -/
def WordPopulated (s : State) (addr : Word) : Prop :=
  addr.toNat < s.params.memSize ∧ (addr + 1#16).toNat < s.params.memSize

/-- N and Z are those of the result `r` (rule R32). -/
def NZFrom (r : Word) (f : Flags) : Prop := (f.n = true ↔ r.getLsbD 15 = true) ∧ (f.z = true ↔ r = 0)

/-- C and V after a non-additive instruction run in `s` (rule R35): 0 and 0 by default, else what the free
function or the next draw gives, of which nothing is known. DESIGN CHOICE (log entries 4 and 9): the rule leaves both
flags open, and the three treatments and the count of draws are how the model holds that. -/
def CVOpen (s : State) (insn : CvInsn) (r : Word) (operands : List Word) (t : State) : Prop :=
  (s.params.cvRule = .zero → t.flags.c = false ∧ t.flags.v = false) ∧
  (s.params.cvRule = .function → (t.flags.c, t.flags.v) = Config.cvNonarith insn r operands) ∧
  (s.params.cvRule = .draw → (t.flags.c, t.flags.v) = Config.cvDraw s.draws) ∧
  t.draws = s.draws + 1

/-- What an instruction that writes only A, the flags and `pc` leaves alone. -/
def OnlyAccumulator (s t : State) : Prop := KeepsArguments s t ∧ KeepsMemory s t ∧ KeepsParams s t

/-- C and V after the addition of `a` and `b` with result `r` (rule R33). -/
def CVOfAdd (a b r : Word) (f : Flags) : Prop :=
  (f.c = true ↔ 65536 ≤ a.toNat + b.toNat) ∧
  (f.v = true ↔ a.getLsbD 15 = b.getLsbD 15 ∧ r.getLsbD 15 ≠ a.getLsbD 15)

/-- C and V after the subtraction `a - b` (rule R34): no borrow, and a signed difference out of range. -/
def CVOfSub (a b : Word) (f : Flags) : Prop :=
  (f.c = true ↔ b.toNat ≤ a.toNat) ∧ (f.v = true ↔ ¬ (-32768 ≤ a.toInt - b.toInt ∧ a.toInt - b.toInt ≤ 32767))

/-- The encoding of the formats `I8`, `I16` and `RR` of a major opcode (rules R82, R83): every word with these
bits is that form, whatever its other bits are. -/
def EncodedForms (major : BitVec 5) (i8 : Word → Instr) (i16 : Word → Word → Instr) (rr : Word → Instr) : Prop :=
  ∀ ir imm : Word, ir.extractLsb' 11 5 = major →
    (ir.getLsbD 8 = false → decodeWords ir imm = .ok (i8 ir)) ∧
    (ir.getLsbD 8 = true → ir.getLsbD 7 = false → decodeWords ir imm = .ok (i16 ir imm)) ∧
    (ir.getLsbD 8 = true → ir.getLsbD 7 = true → decodeWords ir imm = .ok (rr ir))

/-- The register with a 2-bit id: "00 = A, 01 = X, 10 = Y, 11 = SP" (rule R21). -/
def regWithId (id : BitVec 2) : Reg :=
  if id = 0b00#2 then .a else if id = 0b01#2 then .x else if id = 0b10#2 then .y else .sp

/-- The register named by bits 10:9 of a word (rules R21, R82). -/
def wordRa (ir : Word) : Reg := regWithId (ir.extractLsb' 9 2)

/-- The register named by bits 6:5 of a word (rules R21, R82). -/
def wordRb (ir : Word) : Reg := regWithId (ir.extractLsb' 5 2)

/-- A two-operand instruction in its three forms: its encoding, and that every form completes with `Post` of the
start state, the two operands and the end state, `pc` moving past the immediate word in the `I16` form only
(rules R27, R83, R120). -/
def TwoOperandForms (major : BitVec 5) (i8 : Reg → Byte → Instr) (i16 : Reg → Word → Instr)
    (rr : Reg → Reg → Instr) (Post : State → Word → Word → State → Prop) : Prop :=
  EncodedForms major (fun ir => i8 (wordRa ir) (ir.extractLsb' 0 8)) (fun ir imm => i16 (wordRa ir) imm)
    (fun ir => rr (wordRa ir) (wordRb ir)) ∧
  ∀ (s : State) (ra : Reg),
    (∀ k : Byte, Completes (exec (i8 ra k) s) fun t => t.pc = s.pc ∧ Post s (s.reg ra) (k.setWidth 16) t) ∧
    (∀ k : Word, Completes (exec (i16 ra k) s) fun t => t.pc = s.pc + 2 ∧ Post s (s.reg ra) k t) ∧
    (∀ rb : Reg, Completes (exec (rr ra rb) s) fun t => t.pc = s.pc ∧ Post s (s.reg ra) (s.reg rb) t)

/-- A shift in its two forms (rules R92, R210): its encoding, and that both forms complete with `Post` of the
value and the amount. -/
def ShiftForms (p q : Bool) (shi : Reg → BitVec 4 → Instr) (shr : Reg → Reg → Instr)
    (Post : State → Word → Nat → State → Prop) : Prop :=
  (∀ ir imm : Word, ir.extractLsb' 11 5 = 0b01000 → ir.getLsbD 7 = p → ir.getLsbD 4 = q →
    (ir.getLsbD 8 = false → decodeWords ir imm = .ok (shi (wordRa ir) (ir.extractLsb' 0 4))) ∧
    (ir.getLsbD 8 = true → decodeWords ir imm = .ok (shr (wordRa ir) (wordRb ir)))) ∧
  ∀ (s : State) (ra : Reg),
    (∀ n : BitVec 4, Completes (exec (shi ra n) s) fun t => t.pc = s.pc ∧ Post s (s.reg ra) n.toNat t) ∧
    (∀ rb : Reg, Completes (exec (shr ra rb) s) fun t => t.pc = s.pc ∧
      (s.params.shiftAmount = .low4 → Post s (s.reg ra) ((s.reg rb).toNat % 16) t) ∧
      (s.params.shiftAmount = .full → Post s (s.reg ra) (s.reg rb).toNat t))

/-- A load or store in its three forms: its encoding, and `Does` of the start state, the instruction, the
effective address (rule R190) and the `pc` after it. -/
def AddressedForms (major : BitVec 5) (i8 : Reg → Byte → Instr) (i16 : Reg → Word → Instr)
    (rr : Reg → Reg → Instr) (Does : State → Instr → Word → Word → Prop) : Prop :=
  EncodedForms major (fun ir => i8 (wordRa ir) (ir.extractLsb' 0 8)) (fun ir imm => i16 (wordRa ir) imm)
    (fun ir => rr (wordRa ir) (wordRb ir)) ∧
  ∀ (s : State) (ra : Reg),
    (∀ k : Byte, Does s (i8 ra k) (s.reg ra + k.setWidth 16) s.pc) ∧
    (∀ k : Word, Does s (i16 ra k) (s.reg ra + k) (s.pc + 2)) ∧
    (∀ rb : Reg, Does s (rr ra rb) (s.reg ra + s.reg rb) s.pc)

/-- A control transfer in its three forms (rule R153): its encoding, and `Does` of the start state, the
instruction, its target and the address after it. The relative form adds the signed byte offset to `pc`. -/
def TargetForms (major : BitVec 5) (i8 : Byte → Instr) (i16 : Word → Instr) (rr : Reg → Instr)
    (Does : State → Instr → Word → Word → Prop) : Prop :=
  EncodedForms major (fun ir => i8 (ir.extractLsb' 0 8)) (fun _ imm => i16 imm) (fun ir => rr (wordRb ir)) ∧
  ∀ s : State,
    (∀ k : Byte, Does s (i8 k) (BitVec.ofInt 16 ((s.pc.toNat : Int) + k.toInt)) s.pc) ∧
    (∀ k : Word, Does s (i16 k) k (s.pc + 2)) ∧
    (∀ r : Reg, Does s (rr r) (s.reg r) s.pc)

/-- A jump in its three forms (rules R153, R154): it goes to its target when `taken` holds of the flags and on
to the next instruction otherwise, and writes nothing but `pc`. -/
def JumpsWhen (major : BitVec 5) (i8 : Byte → Instr) (i16 : Word → Instr) (rr : Reg → Instr)
    (taken : Flags → Prop) : Prop :=
  TargetForms major i8 i16 rr fun s i target after =>
    (taken s.flags → exec i s = .next { s with pc := target }) ∧
    (¬ taken s.flags → exec i s = .next { s with pc := after })

end Sys2Proof.Machine
end

