-- ==== Sys2Proof/Certificates/Slice0/Obligations.lean ====
section
/-! DEFINITION. The statements for the provers. Each docstring names the rule of the spec a statement
formalises. Every statement is about every choice of the parameters, since the parameters stand in the state. -/

open Sys2Proof Sys2Proof.Machine

/-! ### Encoding and decoding -/

/-- Rules R83, R86, R100: the bytes of every instruction, in either byte order and whatever bytes follow, decode
to that instruction with exactly its own bytes used. -/
def Obligations.DecodeOfEncode : Prop :=
  ∀ (bo : ByteOrder) (i : Instr) (rest : List Byte), decode bo (encode bo i ++ rest) = .ok (i, rest)

/-- Rules R81, R83, R85: the words of a decoded instruction are its encoding but for the don't-care bits, and it
has a second word exactly when the first says so. No bit is read that the encoding does not hold. -/
def Obligations.EncodeOfDecode : Prop :=
  ∀ (ir imm : Word) (i : Instr), decodeWords ir imm = .ok i →
    i.firstWord = ir &&& ~~~ i.dontCare ∧ i.secondWord = if i.size = 4 then some imm else none

/-- Rule R85: changing don't-care bits of a word changes nothing, and the encoder writes 0 in them. -/
def Obligations.DontCareBitsIgnored : Prop :=
  ∀ (ir imm change : Word) (i : Instr), decodeWords ir imm = .ok i →
    decodeWords (ir ^^^ (change &&& i.dontCare)) imm = .ok i ∧ i.firstWord &&& i.dontCare = 0

/-- Rules R87, R88: a word is an instruction exactly when its major opcode is not 01011. -/
def Obligations.OneMajorOpcodeUnassigned : Prop :=
  ∀ ir imm : Word, (∃ i, decodeWords ir imm = .ok i) ↔ ir.extractLsb' 11 5 ≠ 0b01011

/-- Rule R81: a decoded instruction is 4 bytes long exactly when bit 8 is 1, bit 7 is 0 and the major opcode is
one that has an `I16` form, and 2 bytes long otherwise. -/
def Obligations.LengthFromFirstWord : Prop :=
  ∀ (ir imm : Word) (i : Instr), decodeWords ir imm = .ok i →
    (i.size = 4 ∨ i.size = 2) ∧
    (i.size = 4 ↔ ir.getLsbD 8 = true ∧ ir.getLsbD 7 = false ∧
      (ir.extractLsb' 11 5 ∈ [0b00000, 0b00001, 0b00010, 0b00011, 0b00100, 0b00101, 0b00110, 0b00111,
        0b01100, 0b01101, 0b01110, 0b01111] ∨ ir.getLsbD 15 = true))

/-- The example of each format in rule R100, as words. -/
def Obligations.ExampleWordsDecode : Prop :=
  decodeWords 0x0205 0 = .ok (.addI8 .x 5) ∧ decodeWords 0x0100 0x8000 = .ok (.addI16 .a 0x8000) ∧
  decodeWords 0x05E0 0 = .ok (.addRR .y .sp) ∧ decodeWords 0x4014 0 = .ok (.srlSHI .a 4) ∧
  decodeWords 0x43C0 0 = .ok (.sraSHR .x .y) ∧ decodeWords 0x4E00 0 = .ok (.swp .sp) ∧
  decodeWords 0x5000 0 = .ok .hcf

/-! ### The instruction cycle -/

/-- Rule R26: when the bytes at an even `pc` decode to an instruction, all of them populated, a step is that
instruction's meaning with `pc` past the instruction word. -/
def Obligations.StepRunsDecodedInstruction : Prop :=
  ∀ (s : State) (i : Instr) (rest : List Byte), s.pc.getLsbD 0 = false → WordPopulated s s.pc →
    decode s.params.byteOrder
      [s.byteAt s.pc, s.byteAt (s.pc + 1), s.byteAt (s.pc + 2), s.byteAt (s.pc + 3)] = .ok (i, rest) →
    (i.size = 4 → WordPopulated s (s.pc + 2)) →
    step s = exec i { s with pc := s.pc + 2 }

/-- Rules R29, R62, R87, R261, R263: when a step faults before it executes anything, with which fault and in which
order. `ir` is the word at `pc`. That the lower of two unpopulated bytes is the one recorded is the model's
choice (log entry 13). -/
def Obligations.FetchFaultsInOrder : Prop :=
  ∀ s : State,
    (s.pc.getLsbD 0 = true → step s = .fault (.misalignedFetch s.pc)) ∧
    (s.pc.getLsbD 0 = false →
      (s.params.memSize ≤ s.pc.toNat → step s = .fault (.unpopulatedAccess s.pc s.pc)) ∧
      (s.pc.toNat < s.params.memSize → s.params.memSize ≤ (s.pc + 1).toNat →
        step s = .fault (.unpopulatedAccess s.pc (s.pc + 1))) ∧
      (WordPopulated s s.pc → ∀ ir, ir = joinBytes s.params.byteOrder (s.byteAt s.pc) (s.byteAt (s.pc + 1)) →
        (ir.extractLsb' 11 5 = 0b01011 → step s = .fault (.illegalOpcode s.pc)) ∧
        (isLong ir = true →
          (s.params.memSize ≤ (s.pc + 2).toNat → step s = .fault (.unpopulatedAccess s.pc (s.pc + 2))) ∧
          ((s.pc + 2).toNat < s.params.memSize → s.params.memSize ≤ (s.pc + 3).toNat →
            step s = .fault (.unpopulatedAccess s.pc (s.pc + 3))))))

/-- Rules R62, R261: a load, a store or a JAP whose access touches a byte at or above `MEM_SIZE` stops with
`UnpopulatedAccess`, which records the instruction's address and that byte's. Each of the fifteen forms is run
with its own effective address. Which byte is recorded is the model's choice (log entry 13). -/
def Obligations.UnpopulatedDataAccessFaults : Prop :=
  ∀ (s : State) (ra rb : Reg) (k : Byte) (w : Word),
    (∀ (i : Instr) (ea : Word),
      (i, ea) ∈ [(Instr.ldaI8 ra k, s.reg ra + k.setWidth 16), (.ldaI16 ra w, s.reg ra + w),
        (.ldaRR ra rb, s.reg ra + s.reg rb), (.staI8 ra k, s.reg ra + k.setWidth 16),
        (.staI16 ra w, s.reg ra + w), (.staRR ra rb, s.reg ra + s.reg rb),
        (.japI8 k, s.sp), (.japI16 w, s.sp), (.japRR rb, s.sp)] →
      (s.params.memSize ≤ ea.toNat → exec i s = .fault (.unpopulatedAccess (s.pc - 2) ea)) ∧
      (ea.toNat < s.params.memSize → s.params.memSize ≤ (ea + 1).toNat →
        exec i s = .fault (.unpopulatedAccess (s.pc - 2) (ea + 1)))) ∧
    (∀ (i : Instr) (ea : Word),
      (i, ea) ∈ [(Instr.ldabI8 ra k, s.reg ra + k.setWidth 16), (.ldabI16 ra w, s.reg ra + w),
        (.ldabRR ra rb, s.reg ra + s.reg rb), (.stabI8 ra k, s.reg ra + k.setWidth 16),
        (.stabI16 ra w, s.reg ra + w), (.stabRR ra rb, s.reg ra + s.reg rb)] →
      s.params.memSize ≤ ea.toNat → exec i s = .fault (.unpopulatedAccess (s.pc - 2) ea))

/-- Rules R62, R260: with every address populated, every instruction completes from every state, and a step from
an even `pc` stops only at a word of major opcode 01011. -/
def Obligations.FullMemoryAlwaysCompletes : Prop :=
  ∀ s : State, s.params.memSize = 65536 →
    (∀ i : Instr, ∃ t, exec i s = .next t) ∧
    (s.pc.getLsbD 0 = false →
      (joinBytes s.params.byteOrder (s.byteAt s.pc) (s.byteAt (s.pc + 1))).extractLsb' 11 5 ≠ 0b01011 →
      ∃ t, step s = .next t)

/-! ### Halting -/

/-- Rules R150, R265: in a `Halted` state every further step leaves the whole state unchanged, and it is the end of
its own run. -/
def Obligations.HaltedIsFixedPoint : Prop :=
  ∀ s : State, halted s = true → ∀ k : Nat, core.run k s = .next s ∧ runToHalt k s = .halted s

/-- Rules R150, R265: a state is `Halted` exactly when the next step executes HCF. -/
def Obligations.HaltedExactlyAtHcf : Prop :=
  ∀ s : State, halted s = true ↔ fetch s = .instr .hcf { s with pc := s.pc + 2 }

/-- Rule R265: the end of a run is the FIRST `Halted` state reached: a run that ends in `t` within some fuel
reaches `t` by steps, `t` is `Halted`, and no state before it is; with more fuel it ends in the same state. -/
def Obligations.RunEndsAtFirstHalt : Prop :=
  ∀ (fuel : Nat) (s t : State), runToHalt fuel s = .halted t →
    (∃ k ≤ fuel, core.run k s = .next t ∧ halted t = true ∧
      ∀ j < k, ∃ u, core.run j s = .next u ∧ halted u = false) ∧
    ∀ more : Nat, runToHalt (fuel + more) s = .halted t

/-! ### Invariants and rules about the whole machine -/

/-- Rules R50, R62: every step keeps a sound state sound: allowed parameters, memory in canonical form, and nothing
listed outside the populated addresses. -/
def Obligations.StepKeepsSoundState : Prop :=
  ∀ s t : State, s.sound = true → step s = .next t → t.sound = true

/-- The state after reset is sound. That nothing is listed in its memory is the model's choice (log entry 10). -/
def Obligations.ResetIsSound : Prop := State.reset.sound = true

/-- Rules R42, R290, R291: a run starts with `pc` at `RESET_PC`, the image in memory from its origin on and every other
byte as it was, whatever the registers and flags hold; and the model's `State.reset` is such a start with no
image, its zero registers, flags and memory being the model's choice (log entries 7 to 10). An image that runs past
0xFFFF is outside the statement, as the model's `imageWellFormed` has it (log entry 29). -/
def Obligations.StartHoldsImage : Prop :=
  (∀ (p : Params) (a x y sp : Word) (f : Flags) (m : Memory) (origin : Word) (image : List Byte),
    m.wf = true → imageWellFormed p origin image = true → p.wellFormed = true →
      let s := State.start p a x y sp f m origin image
      s.pc = p.resetPc ∧ s.a = a ∧ s.x = x ∧ s.y = y ∧ s.sp = sp ∧ s.flags = f ∧ s.params = p ∧
      (∀ (n : Nat) (b : Byte), image[n]? = some b → s.byteAt (origin + BitVec.ofNat 16 n) = b) ∧
      (∀ addr : Word, addr.toNat < origin.toNat ∨ origin.toNat + image.length ≤ addr.toNat →
        s.byteAt addr = m.read addr.toNat)) ∧
  State.reset = State.start Params.standard 0 0 0 0 ⟨false, false, false, false⟩ [] 0 []

/-- Rules R6, R53: no step changes a parameter; the byte order "cannot be switched at run time". -/
def Obligations.StepKeepsParameters : Prop :=
  ∀ s t : State, step s = .next t → t.params = s.params

/-- Rules R23, R24: X, Y and SP are written by exactly one instruction, SWP. -/
def Obligations.OnlySwpWritesArguments : Prop :=
  ∀ (i : Instr) (s t : State), exec i s = .next t → i.mnemonic ≠ "swp" → t.x = s.x ∧ t.y = s.y ∧ t.sp = s.sp

/-- Rule R22: the instructions that write A are those the rule lists; every other leaves A as it was. -/
def Obligations.AccumulatorWriters : Prop :=
  ∀ (i : Instr) (s t : State), exec i s = .next t →
    i.mnemonic ∉ ["add", "and", "inv", "lda", "ldab", "or", "sll", "srl", "sra", "srr", "sgx", "sub", "swp", "xor"] →
    t.a = s.a

/-- Rule R36: the flags are left unchanged by every instruction but the fifteen the rule lists. -/
def Obligations.FlagWriters : Prop :=
  ∀ (i : Instr) (s t : State), exec i s = .next t →
    i.mnemonic ∉ ["add", "and", "cmp", "inv", "lda", "ldab", "or", "sll", "srl", "sra", "srr", "sgx", "sub", "swp",
      "xor"] →
    t.flags = s.flags

/-- Rules R40, R51: memory is written by STA, STAB and JAP only. -/
def Obligations.MemoryWriters : Prop :=
  ∀ (i : Instr) (s t : State), exec i s = .next t → i.mnemonic ∉ ["sta", "stab", "jap"] → t.mem = s.mem

/-- Rules R26, R27, R28: an instruction that is no control instruction moves `pc` past its own words and nowhere else. -/
def Obligations.ProgramCounterWriters : Prop :=
  ∀ (i : Instr) (s t : State), exec i s = .next t →
    i.mnemonic ∉ ["hcf", "jap", "jnc", "jns", "jne", "jeq", "jlo", "jhs", "jvc", "jvs", "jge", "jlt", "jhi", "jls",
      "jgt", "jle", "jmp"] →
    t.pc = s.pc + (if i.size = 4 then 2 else 0)

/-- Rule R37: the flags are read only by the conditional jumps. Any other instruction does the same from a state
that differs in its flags alone: the two end states differ at most in their flags, and not at all if the
instruction writes the flags. -/
def Obligations.FlagsReadOnlyByConditionalJumps : Prop :=
  ∀ (i : Instr) (s t : State) (f : Flags), exec i s = .next t →
    i.mnemonic ∉ ["jnc", "jns", "jne", "jeq", "jlo", "jhs", "jvc", "jvs", "jge", "jlt", "jhi", "jls", "jgt", "jle"] →
    exec i { s with flags := f } =
      .next (if i.mnemonic ∈ ["hcf", "jap", "jmp", "sta", "stab"] then { t with flags := f } else t)

/-! ### Memory -/

/-- Rules R52, R53, R54, R56: after a word is written, the word reads back, its two bytes are the ones the byte order
says, at any address and around the end of memory, and every other byte reads as before. -/
def Obligations.WordWriteThenRead : Prop :=
  ∀ (s : State) (addr w : Word), s.mem.wf = true → WordPopulated s addr →
    ∃ t, s.writeWord addr w = .ok t ∧ t.readWord addr = .ok w ∧
      (s.params.byteOrder = .little →
        t.byteAt addr = w.extractLsb' 0 8 ∧ t.byteAt (addr + 1) = w.extractLsb' 8 8) ∧
      (s.params.byteOrder = .big →
        t.byteAt addr = w.extractLsb' 8 8 ∧ t.byteAt (addr + 1) = w.extractLsb' 0 8) ∧
      ∀ other : Word, other ≠ addr → other ≠ addr + 1 → t.byteAt other = s.byteAt other

/-- Rule R67: a word stored by STA over the very next instruction is the one the next step executes. The stored
word is an instruction of one word; the instruction is STA in its `I8` form. -/
def Obligations.StoreSeenByNextFetch : Prop :=
  ∀ (s t : State) (ra : Reg) (k : Byte) (i : Instr), s.mem.wf = true → s.pc.getLsbD 0 = false →
    s.reg ra + k.setWidth 16 = s.pc → i.size = 2 → s.a = i.firstWord → exec (.staI8 ra k) s = .next t →
    step t = exec i { t with pc := t.pc + 2 }

/-! ### Arithmetic and logic (rules R120 to R128) -/

/-- Rule R121 (with R27, R33): ADD. The formulas of C and V are the spec's own reading, "[from general knowledge,
not in source]" (rule R33, log entry 18). -/
def Obligations.AddForms : Prop :=
  TwoOperandForms 0b00000 .addI8 .addI16 .addRR fun s a b t =>
    t.a.toNat = (a.toNat + b.toNat) % 65536 ∧ NZFrom t.a t.flags ∧ CVOfAdd a b t.a t.flags ∧
    t.draws = s.draws ∧ OnlyAccumulator s t

/-- Rule R122 (with R27, R35): AND. C and V are open in the spec (rule R35, D6): that clause, with its count of draws,
is the model's choice (log entries 4 and 9). -/
def Obligations.AndForms : Prop :=
  TwoOperandForms 0b00100 .andI8 .andI16 .andRR fun s a b t =>
    (∀ n, t.a.getLsbD n = (a.getLsbD n && b.getLsbD n)) ∧ NZFrom t.a t.flags ∧ CVOpen s .and t.a [a, b] t ∧
    OnlyAccumulator s t

/-- Rule R123 (with R27, R34): CMP. The polarity of C is the spec's own reading, "forced by the TRM's jump-condition
table" (rule R34, log entry 18). -/
def Obligations.CmpForms : Prop :=
  TwoOperandForms 0b00010 .cmpI8 .cmpI16 .cmpRR fun s a b t =>
    NZFrom (a - b) t.flags ∧ CVOfSub a b t.flags ∧ t.a = s.a ∧ t.draws = s.draws ∧ OnlyAccumulator s t

/-- Rule R124 (with R27, R35): INV. Bits 10:9 of its word are don't-cares. C and V are open in the spec (rule R35, D6):
that clause, with its count of draws, is the model's choice (log entries 4 and 9). -/
def Obligations.InvForms : Prop :=
  EncodedForms 0b00111 (fun ir => .invI8 (ir.extractLsb' 0 8)) (fun _ imm => .invI16 imm)
    (fun ir => .invRR (wordRb ir)) ∧
  ∀ s : State,
    (∀ (i : Instr) (b pc : Word), (∃ k : Byte, i = .invI8 k ∧ b = k.setWidth 16 ∧ pc = s.pc) ∨
        (i = .invI16 b ∧ pc = s.pc + 2) ∨ (∃ r, i = .invRR r ∧ b = s.reg r ∧ pc = s.pc) →
      Completes (exec i s) fun t =>
        t.a.toNat = 65535 - b.toNat ∧ t.pc = pc ∧ NZFrom t.a t.flags ∧ CVOpen s .inv t.a [b] t ∧ OnlyAccumulator s t)

/-- Rule R125 (with R27, R35): OR. C and V are open in the spec (rule R35, D6): that clause, with its count of draws,
is the model's choice (log entries 4 and 9). -/
def Obligations.OrForms : Prop :=
  TwoOperandForms 0b00101 .orI8 .orI16 .orRR fun s a b t =>
    (∀ n, t.a.getLsbD n = (a.getLsbD n || b.getLsbD n)) ∧ NZFrom t.a t.flags ∧ CVOpen s .or t.a [a, b] t ∧
    OnlyAccumulator s t

/-- Rules R91, R126 (with R27, R35): SGX. `SGX_REG_FIELD` says which field names the register
(log entry 6). C and V are open in the spec (rule R35, D6): that clause, with its count of draws, is the model's
choice (log entries 4 and 9). -/
def Obligations.SgxForms : Prop :=
  EncodedForms 0b00011 (fun ir => .sgxI8 (ir.extractLsb' 0 8)) (fun _ imm => .sgxI16 imm)
    (fun ir => .sgxRR (wordRa ir) (wordRb ir)) ∧
  ∀ s : State,
    (∀ (i : Instr) (b pc : Word), (∃ k : Byte, i = .sgxI8 k ∧ b = k.setWidth 16 ∧ pc = s.pc) ∨
        (i = .sgxI16 b ∧ pc = s.pc + 2) ∨
        (∃ r q, i = .sgxRR q r ∧ s.params.sgxField = .bits6_5 ∧ b = s.reg r ∧ pc = s.pc) ∨
        (∃ r q, i = .sgxRR q r ∧ s.params.sgxField = .bits10_9 ∧ b = s.reg q ∧ pc = s.pc) →
      Completes (exec i s) fun t =>
        (∀ n < 8, t.a.getLsbD n = b.getLsbD n) ∧ (∀ n, 8 ≤ n → n < 16 → t.a.getLsbD n = b.getLsbD 7) ∧ t.pc = pc ∧
        NZFrom t.a t.flags ∧ CVOpen s .sgx t.a [b] t ∧ OnlyAccumulator s t)

/-- Rule R127 (with R27, R34): SUB. The polarity of C is the spec's own reading (rule R34, log entry 18). -/
def Obligations.SubForms : Prop :=
  TwoOperandForms 0b00001 .subI8 .subI16 .subRR fun s a b t =>
    t.a = a - b ∧ NZFrom t.a t.flags ∧ CVOfSub a b t.flags ∧ t.draws = s.draws ∧ OnlyAccumulator s t

/-- Rule R128 (with R27, R35): XOR. C and V are open in the spec (rule R35, D6): that clause, with its count of draws,
is the model's choice (log entries 4 and 9). -/
def Obligations.XorForms : Prop :=
  TwoOperandForms 0b00110 .xorI8 .xorI16 .xorRR fun s a b t =>
    (∀ n, t.a.getLsbD n = (a.getLsbD n ^^ b.getLsbD n)) ∧ NZFrom t.a t.flags ∧ CVOpen s .xor t.a [a, b] t ∧
    OnlyAccumulator s t

/-- Rule R33: after ADD, C is set exactly when the unsigned sum does not fit 16 bits and V exactly when the signed sum
does not. The formulas are the spec's own reading (rule R33, log entry 18). -/
def Obligations.AddFlagsAreRangeTests : Prop :=
  ∀ (s t : State) (ra rb : Reg), exec (.addRR ra rb) s = .next t →
    (t.flags.c = true ↔ 65535 < (s.reg ra).toNat + (s.reg rb).toNat) ∧
    (t.flags.v = true ↔ ¬ (-32768 ≤ (s.reg ra).toInt + (s.reg rb).toInt ∧
      (s.reg ra).toInt + (s.reg rb).toInt ≤ 32767)) ∧
    (t.flags.v = false → t.a.toInt = (s.reg ra).toInt + (s.reg rb).toInt)

/-- Rule R129: "A negation is `inv` followed by `add #1`": from every state both run, and A becomes its own
negative. -/
def Obligations.InvThenIncrementNegates : Prop :=
  ∀ s : State, ∃ t u, exec (.invRR .a) s = .next t ∧ exec (.addI8 .a 1) t = .next u ∧ u.a + s.a = 0

/-! ### Shifts (rules R210 to R214) and SWP (rule R230)

What the name of a shift means is the spec's own reading, "[from general knowledge, not in source]" (rule R210, log
entry 19). C and V are open in the spec (rule R35, D6): the clause on them, with its count of draws, is the model's
choice (log entries 4 and 9). -/

/-- Rules R210, R211 (with R35): SLL. C and V: the model's choice (log entries 4 and 9). -/
def Obligations.SllForms : Prop :=
  ShiftForms false false .sllSHI .sllSHR fun s v n t =>
    t.a.toNat = (v.toNat * 2 ^ n) % 65536 ∧
    (∀ j < 16, t.a.getLsbD j = (decide (n ≤ j) && v.getLsbD (j - n))) ∧ NZFrom t.a t.flags ∧
    CVOpen s .sll t.a [v, BitVec.ofNat 16 n] t ∧ OnlyAccumulator s t

/-- Rules R210, R212 (with R35): SRL. C and V: the model's choice (log entries 4 and 9). -/
def Obligations.SrlForms : Prop :=
  ShiftForms false true .srlSHI .srlSHR fun s v n t =>
    t.a.toNat = v.toNat / 2 ^ n ∧ (∀ j < 16, t.a.getLsbD j = v.getLsbD (j + n)) ∧ NZFrom t.a t.flags ∧
    CVOpen s .srl t.a [v, BitVec.ofNat 16 n] t ∧ OnlyAccumulator s t

/-- Rules R210, R213 (with R35): SRA. The integer quotient rounds towards minus infinity. C and V: the model's choice
(log entries 4 and 9). -/
def Obligations.SraForms : Prop :=
  ShiftForms true false .sraSHI .sraSHR fun s v n t =>
    t.a.toInt = v.toInt.fdiv (2 ^ n) ∧
    (∀ j < 16, t.a.getLsbD j = if j + n < 16 then v.getLsbD (j + n) else v.getLsbD 15) ∧ NZFrom t.a t.flags ∧
    CVOpen s .sra t.a [v, BitVec.ofNat 16 n] t ∧ OnlyAccumulator s t

/-- Rules R210, R214 (with R35): SRR. C and V: the model's choice (log entries 4 and 9). -/
def Obligations.SrrForms : Prop :=
  ShiftForms true true .srrSHI .srrSHR fun s v n t =>
    (∀ j < 16, t.a.getLsbD j = v.getLsbD ((j + n) % 16)) ∧ NZFrom t.a t.flags ∧
    CVOpen s .srr t.a [v, BitVec.ofNat 16 n] t ∧ OnlyAccumulator s t

/-- Rule R230: SWP: the encoding; A and Ra exchange; the other registers, `pc` and memory stay; N and Z are those of
the new A. C and V are open in the spec (rule R35, D6): that clause, with its count of draws, is the model's choice (log
entries 4 and 9). -/
def Obligations.SwpExchanges : Prop :=
  (∀ ir imm : Word, ir.extractLsb' 11 5 = 0b01001 → decodeWords ir imm = .ok (.swp (wordRa ir))) ∧
  ∀ (s : State) (ra : Reg), Completes (exec (.swp ra) s) fun t =>
    t.a = s.reg ra ∧ t.reg ra = s.a ∧ (∀ r, r ≠ .a → r ≠ ra → t.reg r = s.reg r) ∧ t.pc = s.pc ∧
    NZFrom t.a t.flags ∧ CVOpen s .swp t.a [s.a, s.reg ra] t ∧ KeepsMemory s t ∧ KeepsParams s t

/-! ### Loads and stores (rules R190 to R194)

C and V after a load are open in the spec (rule R35, D6): the clause on them, with its count of draws, is the model's
choice (log entries 4 and 9). -/

/-- Rules R190, R191 (with R27, R35, R52): LDA. C and V: the model's choice (log entries 4 and 9). -/
def Obligations.LdaForms : Prop :=
  AddressedForms 0b01100 .ldaI8 .ldaI16 .ldaRR fun s i ea pc => WordPopulated s ea →
    Completes (exec i s) fun t =>
      (s.params.byteOrder = .little → t.a.toNat = 256 * (s.byteAt (ea + 1)).toNat + (s.byteAt ea).toNat) ∧
      (s.params.byteOrder = .big → t.a.toNat = 256 * (s.byteAt ea).toNat + (s.byteAt (ea + 1)).toNat) ∧
      t.pc = pc ∧ NZFrom t.a t.flags ∧ CVOpen s .lda t.a [ea] t ∧ OnlyAccumulator s t

/-- Rules R190, R192 (with R27, R35): LDAB. C and V: the model's choice (log entries 4 and 9). -/
def Obligations.LdabForms : Prop :=
  AddressedForms 0b01101 .ldabI8 .ldabI16 .ldabRR fun s i ea pc => ea.toNat < s.params.memSize →
    Completes (exec i s) fun t =>
      t.a.toNat = (s.byteAt ea).toNat ∧ t.flags.n = false ∧ (t.flags.z = true ↔ s.byteAt ea = 0) ∧
      t.pc = pc ∧ CVOpen s .ldab t.a [ea] t ∧ OnlyAccumulator s t

/-- Rules R190, R193 (with R27, R52): STA. Every byte but the two stored reads as before. -/
def Obligations.StaForms : Prop :=
  AddressedForms 0b01110 .staI8 .staI16 .staRR fun s i ea pc => s.mem.wf = true → WordPopulated s ea →
    Completes (exec i s) fun t =>
      (s.params.byteOrder = .little →
        t.byteAt ea = s.a.extractLsb' 0 8 ∧ t.byteAt (ea + 1) = s.a.extractLsb' 8 8) ∧
      (s.params.byteOrder = .big →
        t.byteAt ea = s.a.extractLsb' 8 8 ∧ t.byteAt (ea + 1) = s.a.extractLsb' 0 8) ∧
      (∀ addr : Word, addr ≠ ea → addr ≠ ea + 1 → t.byteAt addr = s.byteAt addr) ∧
      t.pc = pc ∧ t.a = s.a ∧ KeepsArguments s t ∧ KeepsFlags s t ∧ KeepsParams s t

/-- Rules R190, R194 (with R27): STAB. Every byte but the one stored reads as before. -/
def Obligations.StabForms : Prop :=
  AddressedForms 0b01111 .stabI8 .stabI16 .stabRR fun s i ea pc => s.mem.wf = true → ea.toNat < s.params.memSize →
    Completes (exec i s) fun t =>
      t.byteAt ea = s.a.extractLsb' 0 8 ∧ (∀ addr : Word, addr ≠ ea → t.byteAt addr = s.byteAt addr) ∧
      t.pc = pc ∧ t.a = s.a ∧ KeepsArguments s t ∧ KeepsFlags s t ∧ KeepsParams s t

/-! ### Control (rules R150 to R172)

That an untaken `I16` jump skips its immediate word, and that a taken one adds nothing to its target, is the spec's own
decision (rule R172, log entry 16). -/

/-- Rules R30, R150: HCF: the encoding, and that a step at an HCF word leaves the whole state as it is, at every even
address, 0xFFFE among them. -/
def Obligations.HcfRepeatsItself : Prop :=
  (∀ ir imm : Word, ir.extractLsb' 11 5 = 0b01010 → decodeWords ir imm = .ok .hcf) ∧
  (∀ s : State, exec .hcf s = .next { s with pc := s.pc - 2 }) ∧
  ∀ s : State, s.pc.getLsbD 0 = false → WordPopulated s s.pc →
    (joinBytes s.params.byteOrder (s.byteAt s.pc) (s.byteAt (s.pc + 1))).extractLsb' 11 5 = 0b01010 →
    step s = .next s

/-- Rules R152, R153: JAP: the following instruction's address goes to the word at SP, `pc` to the target; no
register or flag is written, and every other byte reads as before. -/
def Obligations.JapForms : Prop :=
  TargetForms 0b11111 .japI8 .japI16 .japRR fun s i target after => s.mem.wf = true → WordPopulated s s.sp →
    Completes (exec i s) fun t =>
      t.pc = target ∧
      (s.params.byteOrder = .little →
        t.byteAt s.sp = after.extractLsb' 0 8 ∧ t.byteAt (s.sp + 1) = after.extractLsb' 8 8) ∧
      (s.params.byteOrder = .big →
        t.byteAt s.sp = after.extractLsb' 8 8 ∧ t.byteAt (s.sp + 1) = after.extractLsb' 0 8) ∧
      (∀ addr : Word, addr ≠ s.sp → addr ≠ s.sp + 1 → t.byteAt addr = s.byteAt addr) ∧
      t.a = s.a ∧ KeepsArguments s t ∧ KeepsFlags s t ∧ KeepsParams s t

/-- Rules R153 to R159: JNC, JNS, JNE and JEQ. -/
def Obligations.NegativeAndZeroJumps : Prop :=
  JumpsWhen 0b10000 .jncI8 .jncI16 .jncRR (fun f => f.n = false) ∧
  JumpsWhen 0b10001 .jnsI8 .jnsI16 .jnsRR (fun f => f.n = true) ∧
  JumpsWhen 0b10010 .jneI8 .jneI16 .jneRR (fun f => f.z = false) ∧
  JumpsWhen 0b10011 .jeqI8 .jeqI16 .jeqRR (fun f => f.z = true)

/-- Rules R153 to R155, R160 to R163: JLO, JHS, JVC and JVS. -/
def Obligations.CarryAndOverflowJumps : Prop :=
  JumpsWhen 0b10100 .jloI8 .jloI16 .jloRR (fun f => f.c = false) ∧
  JumpsWhen 0b10101 .jhsI8 .jhsI16 .jhsRR (fun f => f.c = true) ∧
  JumpsWhen 0b10110 .jvcI8 .jvcI16 .jvcRR (fun f => f.v = false) ∧
  JumpsWhen 0b10111 .jvsI8 .jvsI16 .jvsRR (fun f => f.v = true)

/-- Rules R153 to R155, R164 to R169: JGE, JLT, JHI, JLS, JGT and JLE. -/
def Obligations.ComparisonJumps : Prop :=
  JumpsWhen 0b11000 .jgeI8 .jgeI16 .jgeRR (fun f => f.n = f.v) ∧
  JumpsWhen 0b11001 .jltI8 .jltI16 .jltRR (fun f => f.n ≠ f.v) ∧
  JumpsWhen 0b11010 .jhiI8 .jhiI16 .jhiRR (fun f => f.c = true ∧ f.z = false) ∧
  JumpsWhen 0b11011 .jlsI8 .jlsI16 .jlsRR (fun f => f.c = false ∨ f.z = true) ∧
  JumpsWhen 0b11100 .jgtI8 .jgtI16 .jgtRR (fun f => f.n = f.v ∧ f.z = false) ∧
  JumpsWhen 0b11101 .jleI8 .jleI16 .jleRR (fun f => f.n ≠ f.v ∨ f.z = true)

/-- Rules R153, R154, R170: JMP. -/
def Obligations.UnconditionalJump : Prop :=
  TargetForms 0b11110 .jmpI8 .jmpI16 .jmpRR fun s i target _ => exec i s = .next { s with pc := target }

/-- Rules R34, R155: after `cmp Ra,Rb` the unsigned condition names are true: JLO, JHS, JHI and JLS are taken exactly
when Ra is lower, higher or same, higher, lower or same as an unsigned number; JEQ and JNE when equal and not. -/
def Obligations.UnsignedNamesAfterCompare : Prop :=
  ∀ (s t : State) (ra rb : Reg) (k : Word), exec (.cmpRR ra rb) s = .next t →
    let a := (s.reg ra).toNat
    let b := (s.reg rb).toNat
    exec (.jloI16 k) t = .next { t with pc := if a < b then k else t.pc + 2 } ∧
    exec (.jhsI16 k) t = .next { t with pc := if b ≤ a then k else t.pc + 2 } ∧
    exec (.jhiI16 k) t = .next { t with pc := if b < a then k else t.pc + 2 } ∧
    exec (.jlsI16 k) t = .next { t with pc := if a ≤ b then k else t.pc + 2 } ∧
    exec (.jeqI16 k) t = .next { t with pc := if a = b then k else t.pc + 2 } ∧
    exec (.jneI16 k) t = .next { t with pc := if a ≠ b then k else t.pc + 2 }

/-- Rules R34, R155: after `cmp Ra,Rb` the signed condition names are true: JLT, JGE, JGT and JLE compare Ra and Rb as
two's-complement numbers. -/
def Obligations.SignedNamesAfterCompare : Prop :=
  ∀ (s t : State) (ra rb : Reg) (k : Word), exec (.cmpRR ra rb) s = .next t →
    let a := (s.reg ra).toInt
    let b := (s.reg rb).toInt
    exec (.jltI16 k) t = .next { t with pc := if a < b then k else t.pc + 2 } ∧
    exec (.jgeI16 k) t = .next { t with pc := if b ≤ a then k else t.pc + 2 } ∧
    exec (.jgtI16 k) t = .next { t with pc := if b < a then k else t.pc + 2 } ∧
    exec (.jleI16 k) t = .next { t with pc := if a ≤ b then k else t.pc + 2 }

/-- Rule R155: "bit 11 inverts the condition of the even code below it, for all pairs from nc/ns to gt/le; the pair
mp/JAP is the exception": flipping bit 11 of an absolute jump's word makes it jump exactly when it did not. -/
def Obligations.JumpCodesPairUp : Prop :=
  ∀ (ir imm : Word) (i j : Instr) (s : State), ir.getLsbD 15 = true → ir.extractLsb' 12 3 ≠ 0b111 →
    ir.getLsbD 8 = true → ir.getLsbD 7 = false → decodeWords ir imm = .ok i → decodeWords (ir ^^^ 0x0800) imm = .ok j →
    (exec i s = .next { s with pc := imm } ∧ exec j s = .next { s with pc := s.pc + 2 }) ∨
    (exec i s = .next { s with pc := s.pc + 2 } ∧ exec j s = .next { s with pc := imm })

/-! ### The assembler and the standard macros -/

/-- Rule R97 (with R153): a jump assembled at an address, executed there, goes to its target in whichever form the
assembler chose. `pc` is the address plus 2 during execution (rule R26). The addresses are compared as unsigned
numbers (log entry 28). -/
def Obligations.AssembledJumpReachesTarget : Prop :=
  ∀ (s : State) (addr target : Word), s.pc = addr + 2 →
    exec (asmJmp (asmTarget addr target)) s = .next { s with pc := target } ∧
    (∀ k, asmTarget addr target = .relative k → k.toInt = (target.toNat : Int) - (addr + 2).toNat) ∧
    (asmTarget addr target = .absolute target ↔
      ¬ (-128 ≤ (target.toNat : Int) - (addr + 2).toNat ∧ (target.toNat : Int) - (addr + 2).toNat ≤ 127))

/-- Rule R96: "a value 0 to 255 gives the same result in either form (for SGX too ...); the forms differ only in
length". The result is A and the flags; stated for ADD, SUB, CMP, AND, OR, XOR, INV and SGX. -/
def Obligations.ImmediateFormsAgree : Prop :=
  ∀ (s : State) (ra : Reg) (v : Word) (k : Byte), asmImmediate v = .imm8 k →
    ∀ i j : Instr, (i, j) ∈ [(Instr.addI8 ra k, Instr.addI16 ra v), (.subI8 ra k, .subI16 ra v),
      (.cmpI8 ra k, .cmpI16 ra v), (.andI8 ra k, .andI16 ra v), (.orI8 ra k, .orI16 ra v),
      (.xorI8 ra k, .xorI16 ra v), (.invI8 k, .invI16 v), (.sgxI8 k, .sgxI16 v)] →
    ∃ t, exec i s = .next t ∧ exec j s = .next { t with pc := t.pc + 2 }

/-- Rules R246, R247: `ldi #k` is one two-word INV that leaves `k` in A; `ldib #v` is one one-word INV that leaves
`0xFF00 | v`, with N = 1 and Z = 0. The clause on C and V is the model's choice (rule R35, log entries 4 and 9). -/
def Obligations.LoadMacros : Prop :=
  ∀ (s : State) (k : Word) (v : Byte),
    (assembledWords (expandMacro (.ldi k)) = [0x3900, ~~~ k] ∧
      ∃ i, expandMacro (.ldi k) = [i] ∧ Completes (exec i s) fun t =>
        t.a = k ∧ NZFrom k t.flags ∧ t.pc = s.pc + 2 ∧ CVOpen s .inv k [~~~ k] t ∧ OnlyAccumulator s t) ∧
    (assembledWords (expandMacro (.ldib v)) = [0x3800 ||| (255 - v.setWidth 16)] ∧
      ∃ i, expandMacro (.ldib v) = [i] ∧ Completes (exec i s) fun t =>
        t.a = 0xFF00 ||| v.setWidth 16 ∧ t.flags.n = true ∧ t.flags.z = false ∧ t.pc = s.pc ∧ OnlyAccumulator s t)

/-- Rules R240, R241: `dec` and `inc`, their words and their flags. The formulas of C and V are the spec's own reading
(rules R33, R34, log entry 18). -/
def Obligations.DecrementAndIncrement : Prop :=
  assembledWords (expandMacro .dec) = [0x0801] ∧ assembledWords (expandMacro .inc) = [0x0001] ∧
  ∀ s : State,
    (∃ i, expandMacro .dec = [i] ∧ Completes (exec i s) fun t =>
      t.a = s.a - 1 ∧ NZFrom t.a t.flags ∧ (t.flags.c = false ↔ s.a = 0x0000) ∧ (t.flags.v = true ↔ s.a = 0x8000) ∧
      t.pc = s.pc ∧ t.draws = s.draws ∧ OnlyAccumulator s t) ∧
    (∃ i, expandMacro .inc = [i] ∧ Completes (exec i s) fun t =>
      t.a = s.a + 1 ∧ NZFrom t.a t.flags ∧ (t.flags.c = true ↔ s.a = 0xFFFF) ∧ (t.flags.v = true ↔ s.a = 0x7FFF) ∧
      t.pc = s.pc ∧ t.draws = s.draws ∧ OnlyAccumulator s t)

/-- Rules R152, R248: `ret` returns to the instruction after the `jap` when SP is 2 less than it was at the `jap` and
the saved word has not been overwritten: `u` is any such state. A is overwritten with the return address; X, Y
and SP survive. -/
def Obligations.ReturnAfterCall : Prop :=
  ∀ (s t u : State) (target : Word), s.mem.wf = true → WordPopulated s s.sp →
    exec (.japI16 target) s = .next t →
    u.sp = s.sp - 2 → u.params = s.params → u.byteAt s.sp = t.byteAt s.sp →
    u.byteAt (s.sp + 1) = t.byteAt (s.sp + 1) →
    ∃ i j, expandMacro .ret = [i, j] ∧ Completes (exec i u) fun v =>
      Completes (exec j { v with pc := v.pc + 2 }) fun w =>
        t.pc = target ∧ w.pc = s.pc + 2 ∧ w.a = s.pc + 2 ∧ KeepsArguments u w ∧ KeepsMemory u w

/-! ### N and Z of every result (rule R32) -/

/-- Rule R32: an instruction that writes the flags sets N to bit 15 of its result and Z exactly when the result is 0:
the result is the new A, and for CMP the difference. -/
def Obligations.NegativeAndZeroOfResult : Prop :=
  ∀ (i : Instr) (s t : State), exec i s = .next t →
    (i.mnemonic ∈ ["add", "and", "inv", "lda", "ldab", "or", "sll", "srl", "sra", "srr", "sgx", "sub", "swp", "xor"] →
      NZFrom t.a t.flags) ∧
    (∀ (ra : Reg) (k : Byte), i = .cmpI8 ra k → NZFrom (s.reg ra - k.setWidth 16) t.flags) ∧
    (∀ (ra : Reg) (k : Word), i = .cmpI16 ra k → NZFrom (s.reg ra - k) t.flags) ∧
    (∀ ra rb : Reg, i = .cmpRR ra rb → NZFrom (s.reg ra - s.reg rb) t.flags)
end

