-- ==== Sys2Proof/Laws/Decode.lean ====
section
/-! SUPPORT. The fields of an instruction word, the choice of a form, and the two orders of a word's bytes: what
the decoder and the encoder rest on. -/

namespace Sys2Proof.Machine

/-! ### Registers and their ids -/

@[simp] theorem ofId_id (r : Reg) : Reg.ofId r.id = r := by cases r <;> rfl

@[simp] theorem id_ofId (id : BitVec 2) : (Reg.ofId id).id = id := by revert id; decide

theorem regWithId_eq_ofId (id : BitVec 2) : regWithId id = Reg.ofId id := by revert id; decide

/-- The register fields as the statements name them are the decoder's. -/
theorem wordRa_eq_raField (ir : Word) : wordRa ir = raField ir := regWithId_eq_ofId _

theorem wordRb_eq_rbField (ir : Word) : wordRb ir = rbField ir := regWithId_eq_ofId _

/-! ### Bits of an encoded word -/

/-- The bits of a register id placed at bit `n`. -/
theorem getLsbD_placedId (r : Reg) (n i : Nat) (hn : n + 2 ≤ 16) :
    ((r.id.setWidth 16 : Word) <<< n).getLsbD i = (decide (n ≤ i) && r.id.getLsbD (i - n)) := by
  rw [BitVec.getLsbD_shiftLeft, BitVec.getLsbD_setWidth]
  by_cases h : n ≤ i
  · by_cases hi : i - n < 2
    · simp [h, show i < 16 by omega, show ¬ i < n by omega, show i - n < 16 by omega]
    · simp [h, BitVec.getLsbD_of_ge r.id (i - n) (by omega)]
  · simp [h, show i < n by omega]

theorem getLsbD_raBits (r : Reg) (i : Nat) : (raBits r).getLsbD i = (decide (9 ≤ i) && r.id.getLsbD (i - 9)) :=
  getLsbD_placedId r 9 i (by omega)

theorem getLsbD_rbBits (r : Reg) (i : Nat) : (rbBits r).getLsbD i = (decide (5 ≤ i) && r.id.getLsbD (i - 5)) :=
  getLsbD_placedId r 5 i (by omega)

/-- An immediate of at most 9 bits reaches no higher bit of the word. -/
theorem getLsbD_imm_of_le {w : Nat} (imm : BitVec w) (i : Nat) (h : w ≤ i) :
    (imm.setWidth 16 : Word).getLsbD i = false := by
  rw [BitVec.getLsbD_setWidth, BitVec.getLsbD_of_ge imm i h, Bool.and_false]

/-- An immediate meets no mask above it. -/
theorem imm_and_mask {w : Nat} (imm : BitVec w) (mask : Word) (h : ∀ i < w, mask.getLsbD i = false) :
    (imm.setWidth 16 : Word) &&& mask = 0 := by
  apply BitVec.eq_of_getLsbD_eq
  intro i _
  rw [BitVec.getLsbD_and]
  by_cases hi : i < w
  · rw [h i hi]; simp
  · rw [getLsbD_imm_of_le imm i (by omega)]; simp

/-! ### The choice of a form -/

theorem selectForm_i8 {ir : Word} (i8 i16 rr : Instr) (h8 : ir.getLsbD 8 = false) :
    selectForm ir i8 i16 rr = i8 := by
  rw [selectForm, modeBit, if_pos h8]

theorem selectForm_i16 {ir : Word} (i8 i16 rr : Instr) (h8 : ir.getLsbD 8 = true) (h7 : ir.getLsbD 7 = false) :
    selectForm ir i8 i16 rr = i16 := by
  rw [selectForm, modeBit, selectBit, if_neg (by rw [h8]; decide), if_pos h7]

theorem selectForm_rr {ir : Word} (i8 i16 rr : Instr) (h8 : ir.getLsbD 8 = true) (h7 : ir.getLsbD 7 = true) :
    selectForm ir i8 i16 rr = rr := by
  rw [selectForm, modeBit, selectBit, if_neg (by rw [h8]; decide), if_neg (by rw [h7]; decide)]

/-- An instruction that its major opcode alone selects up to the form has the encoding `EncodedForms` says. -/
theorem encodedForms_of_selectForm (major : BitVec 5) (i8 : Word → Instr) (i16 : Word → Word → Instr)
    (rr : Word → Instr)
    (h : ∀ ir imm : Word, ir.extractLsb' 11 5 = major →
      decodeWords ir imm = .ok (selectForm ir (i8 ir) (i16 ir imm) (rr ir))) :
    EncodedForms major i8 i16 rr := fun ir imm hm =>
  ⟨fun h8 => by rw [h ir imm hm, selectForm_i8 _ _ _ h8],
    fun h8 h7 => by rw [h ir imm hm, selectForm_i16 _ _ _ h8 h7],
    fun h8 h7 => by rw [h ir imm hm, selectForm_rr _ _ _ h8 h7]⟩

/-- A word of the unassigned major opcode has no immediate word and is refused. -/
theorem isLong_of_unassigned (ir : Word) (h : opField ir = 0b01011) : isLong ir = false := by
  simp [isLong, hasI16Form, h]

theorem decodeWords_of_unassigned (ir imm : Word) (h : opField ir = 0b01011) :
    decodeWords ir imm = .error .unassignedOpcode := by
  simp [decodeWords, h]

/-! ### The bytes of a word -/

theorem toNat_joinBytes_little (b0 b1 : Byte) : (joinBytes .little b0 b1).toNat = 256 * b1.toNat + b0.toNat := by
  simp only [joinBytes, BitVec.toNat_append]
  rw [← Nat.shiftLeft_add_eq_or_of_lt b0.isLt, Nat.shiftLeft_eq]
  omega

theorem toNat_joinBytes_big (b0 b1 : Byte) : (joinBytes .big b0 b1).toNat = 256 * b0.toNat + b1.toNat := by
  simp only [joinBytes, BitVec.toNat_append]
  rw [← Nat.shiftLeft_add_eq_or_of_lt b1.isLt, Nat.shiftLeft_eq]
  omega

/-- The bytes of a word join to the word. -/
@[simp] theorem joinBytes_splitWord (bo : ByteOrder) (w : Word) :
    joinBytes bo (splitWord bo w).1 (splitWord bo w).2 = w := by
  have join : w.extractLsb' 8 8 ++ w.extractLsb' 0 8 = w := by
    apply BitVec.eq_of_getLsbD_eq
    intro i hi
    rw [BitVec.getLsbD_append]
    by_cases h : i < 8 <;> simp [h]
    grind
  cases bo <;> simpa [joinBytes, splitWord] using join

end Sys2Proof.Machine
end

