-- ==== Sys2Proof/Laws/State.lean ====
section
/-! SUPPORT. One lemma per field of the state per update, so that no proof unfolds a record update. -/

namespace Sys2Proof.Machine

/-! ### `setPc` and `advance` -/

@[simp] theorem setPc_a (s : State) (w : Word) : (s.setPc w).a = s.a := rfl
@[simp] theorem setPc_x (s : State) (w : Word) : (s.setPc w).x = s.x := rfl
@[simp] theorem setPc_y (s : State) (w : Word) : (s.setPc w).y = s.y := rfl
@[simp] theorem setPc_sp (s : State) (w : Word) : (s.setPc w).sp = s.sp := rfl
@[simp] theorem setPc_pc (s : State) (w : Word) : (s.setPc w).pc = w := rfl
@[simp] theorem setPc_flags (s : State) (w : Word) : (s.setPc w).flags = s.flags := rfl
@[simp] theorem setPc_mem (s : State) (w : Word) : (s.setPc w).mem = s.mem := rfl
@[simp] theorem setPc_params (s : State) (w : Word) : (s.setPc w).params = s.params := rfl
@[simp] theorem setPc_draws (s : State) (w : Word) : (s.setPc w).draws = s.draws := rfl

@[simp] theorem advance_a (s : State) : s.advance.a = s.a := rfl
@[simp] theorem advance_x (s : State) : s.advance.x = s.x := rfl
@[simp] theorem advance_y (s : State) : s.advance.y = s.y := rfl
@[simp] theorem advance_sp (s : State) : s.advance.sp = s.sp := rfl
@[simp] theorem advance_pc (s : State) : s.advance.pc = s.pc + 2#16 := rfl
@[simp] theorem advance_flags (s : State) : s.advance.flags = s.flags := rfl
@[simp] theorem advance_mem (s : State) : s.advance.mem = s.mem := rfl
@[simp] theorem advance_params (s : State) : s.advance.params = s.params := rfl
@[simp] theorem advance_draws (s : State) : s.advance.draws = s.draws := rfl

/-! ### `setReg` and `reg` -/

@[simp] theorem setReg_pc (s : State) (r : Reg) (w : Word) : (s.setReg r w).pc = s.pc := by cases r <;> rfl
@[simp] theorem setReg_flags (s : State) (r : Reg) (w : Word) : (s.setReg r w).flags = s.flags := by cases r <;> rfl
@[simp] theorem setReg_mem (s : State) (r : Reg) (w : Word) : (s.setReg r w).mem = s.mem := by cases r <;> rfl
@[simp] theorem setReg_params (s : State) (r : Reg) (w : Word) : (s.setReg r w).params = s.params := by cases r <;> rfl
@[simp] theorem setReg_draws (s : State) (r : Reg) (w : Word) : (s.setReg r w).draws = s.draws := by cases r <;> rfl

@[simp] theorem setReg_a_a (s : State) (w : Word) : (s.setReg .a w).a = w := rfl
@[simp] theorem setReg_a_x (s : State) (w : Word) : (s.setReg .a w).x = s.x := rfl
@[simp] theorem setReg_a_y (s : State) (w : Word) : (s.setReg .a w).y = s.y := rfl
@[simp] theorem setReg_a_sp (s : State) (w : Word) : (s.setReg .a w).sp = s.sp := rfl
@[simp] theorem setReg_x_a (s : State) (w : Word) : (s.setReg .x w).a = s.a := rfl
@[simp] theorem setReg_x_x (s : State) (w : Word) : (s.setReg .x w).x = w := rfl
@[simp] theorem setReg_x_y (s : State) (w : Word) : (s.setReg .x w).y = s.y := rfl
@[simp] theorem setReg_x_sp (s : State) (w : Word) : (s.setReg .x w).sp = s.sp := rfl
@[simp] theorem setReg_y_a (s : State) (w : Word) : (s.setReg .y w).a = s.a := rfl
@[simp] theorem setReg_y_x (s : State) (w : Word) : (s.setReg .y w).x = s.x := rfl
@[simp] theorem setReg_y_y (s : State) (w : Word) : (s.setReg .y w).y = w := rfl
@[simp] theorem setReg_y_sp (s : State) (w : Word) : (s.setReg .y w).sp = s.sp := rfl
@[simp] theorem setReg_sp_a (s : State) (w : Word) : (s.setReg .sp w).a = s.a := rfl
@[simp] theorem setReg_sp_x (s : State) (w : Word) : (s.setReg .sp w).x = s.x := rfl
@[simp] theorem setReg_sp_y (s : State) (w : Word) : (s.setReg .sp w).y = s.y := rfl
@[simp] theorem setReg_sp_sp (s : State) (w : Word) : (s.setReg .sp w).sp = w := rfl

@[simp] theorem reg_a (s : State) : s.reg .a = s.a := rfl
@[simp] theorem reg_x (s : State) : s.reg .x = s.x := rfl
@[simp] theorem reg_y (s : State) : s.reg .y = s.y := rfl
@[simp] theorem reg_sp (s : State) : s.reg .sp = s.sp := rfl

@[simp] theorem reg_setReg_same (s : State) (r : Reg) (w : Word) : (s.setReg r w).reg r = w := by
  cases r <;> rfl

theorem reg_setReg_other (s : State) (r q : Reg) (w : Word) (h : q ≠ r) : (s.setReg r w).reg q = s.reg q := by
  cases r <;> cases q <;> first | rfl | exact absurd rfl h

@[simp] theorem reg_setPc (s : State) (w : Word) (r : Reg) : (s.setPc w).reg r = s.reg r := by
  cases r <;> rfl

@[simp] theorem reg_advance (s : State) (r : Reg) : s.advance.reg r = s.reg r := by cases r <;> rfl

/-! ### Flags -/

@[simp] theorem setSumFlags_a (s : State) (q : Sum) : (s.setSumFlags q).a = s.a := rfl
@[simp] theorem setSumFlags_x (s : State) (q : Sum) : (s.setSumFlags q).x = s.x := rfl
@[simp] theorem setSumFlags_y (s : State) (q : Sum) : (s.setSumFlags q).y = s.y := rfl
@[simp] theorem setSumFlags_sp (s : State) (q : Sum) : (s.setSumFlags q).sp = s.sp := rfl
@[simp] theorem setSumFlags_pc (s : State) (q : Sum) : (s.setSumFlags q).pc = s.pc := rfl
@[simp] theorem setSumFlags_flags (s : State) (q : Sum) : (s.setSumFlags q).flags = flagsOf q.r q.c q.v := rfl
@[simp] theorem setSumFlags_mem (s : State) (q : Sum) : (s.setSumFlags q).mem = s.mem := rfl
@[simp] theorem setSumFlags_params (s : State) (q : Sum) : (s.setSumFlags q).params = s.params := rfl
@[simp] theorem setSumFlags_draws (s : State) (q : Sum) : (s.setSumFlags q).draws = s.draws := rfl

@[simp] theorem setResultFlags_a (s : State) (insn : CvInsn) (w : Word) (l : List Word) :
    (s.setResultFlags insn w l).a = s.a := rfl
@[simp] theorem setResultFlags_x (s : State) (insn : CvInsn) (w : Word) (l : List Word) :
    (s.setResultFlags insn w l).x = s.x := rfl
@[simp] theorem setResultFlags_y (s : State) (insn : CvInsn) (w : Word) (l : List Word) :
    (s.setResultFlags insn w l).y = s.y := rfl
@[simp] theorem setResultFlags_sp (s : State) (insn : CvInsn) (w : Word) (l : List Word) :
    (s.setResultFlags insn w l).sp = s.sp := rfl
@[simp] theorem setResultFlags_pc (s : State) (insn : CvInsn) (w : Word) (l : List Word) :
    (s.setResultFlags insn w l).pc = s.pc := rfl
@[simp] theorem setResultFlags_flags (s : State) (insn : CvInsn) (w : Word) (l : List Word) :
    (s.setResultFlags insn w l).flags = 
      flagsOf w (nonarithCV s insn w l).1 (nonarithCV s insn w l).2 := rfl
@[simp] theorem setResultFlags_mem (s : State) (insn : CvInsn) (w : Word) (l : List Word) :
    (s.setResultFlags insn w l).mem = s.mem := rfl
@[simp] theorem setResultFlags_params (s : State) (insn : CvInsn) (w : Word) (l : List Word) :
    (s.setResultFlags insn w l).params = s.params := rfl
@[simp] theorem setResultFlags_draws (s : State) (insn : CvInsn) (w : Word) (l : List Word) :
    (s.setResultFlags insn w l).draws = s.draws + 1 := rfl
@[simp] theorem flagsOf_n (r : Word) (c v : Bool) : (flagsOf r c v).n = r.msb := rfl
@[simp] theorem flagsOf_z (r : Word) (c v : Bool) : (flagsOf r c v).z = decide (r = 0#16) := rfl
@[simp] theorem flagsOf_c (r : Word) (c v : Bool) : (flagsOf r c v).c = c := rfl
@[simp] theorem flagsOf_v (r : Word) (c v : Bool) : (flagsOf r c v).v = v := rfl

/-! ### `putByte` and `putBytes` -/

@[simp] theorem putByte_a (s : State) (addr : Word) (b : Byte) : (s.putByte addr b).a = s.a := rfl
@[simp] theorem putByte_x (s : State) (addr : Word) (b : Byte) : (s.putByte addr b).x = s.x := rfl
@[simp] theorem putByte_y (s : State) (addr : Word) (b : Byte) : (s.putByte addr b).y = s.y := rfl
@[simp] theorem putByte_sp (s : State) (addr : Word) (b : Byte) : (s.putByte addr b).sp = s.sp := rfl
@[simp] theorem putByte_pc (s : State) (addr : Word) (b : Byte) : (s.putByte addr b).pc = s.pc := rfl
@[simp] theorem putByte_flags (s : State) (addr : Word) (b : Byte) : (s.putByte addr b).flags = s.flags := rfl
@[simp] theorem putByte_mem (s : State) (addr : Word) (b : Byte) : (s.putByte addr b).mem = s.mem.write addr.toNat b := rfl
@[simp] theorem putByte_params (s : State) (addr : Word) (b : Byte) : (s.putByte addr b).params = s.params := rfl
@[simp] theorem putByte_draws (s : State) (addr : Word) (b : Byte) : (s.putByte addr b).draws = s.draws := rfl

@[simp] theorem putBytes_a (s : State) (addr : Word) (l : List Byte) : (s.putBytes addr l).a = s.a := by
  induction l generalizing s addr with
  | nil => rfl
  | cons b l ih => simp [State.putBytes, ih]
@[simp] theorem putBytes_x (s : State) (addr : Word) (l : List Byte) : (s.putBytes addr l).x = s.x := by
  induction l generalizing s addr with
  | nil => rfl
  | cons b l ih => simp [State.putBytes, ih]
@[simp] theorem putBytes_y (s : State) (addr : Word) (l : List Byte) : (s.putBytes addr l).y = s.y := by
  induction l generalizing s addr with
  | nil => rfl
  | cons b l ih => simp [State.putBytes, ih]
@[simp] theorem putBytes_sp (s : State) (addr : Word) (l : List Byte) : (s.putBytes addr l).sp = s.sp := by
  induction l generalizing s addr with
  | nil => rfl
  | cons b l ih => simp [State.putBytes, ih]
@[simp] theorem putBytes_pc (s : State) (addr : Word) (l : List Byte) : (s.putBytes addr l).pc = s.pc := by
  induction l generalizing s addr with
  | nil => rfl
  | cons b l ih => simp [State.putBytes, ih]
@[simp] theorem putBytes_flags (s : State) (addr : Word) (l : List Byte) : (s.putBytes addr l).flags = s.flags := by
  induction l generalizing s addr with
  | nil => rfl
  | cons b l ih => simp [State.putBytes, ih]
@[simp] theorem putBytes_params (s : State) (addr : Word) (l : List Byte) : (s.putBytes addr l).params = s.params := by
  induction l generalizing s addr with
  | nil => rfl
  | cons b l ih => simp [State.putBytes, ih]
@[simp] theorem putBytes_draws (s : State) (addr : Word) (l : List Byte) : (s.putBytes addr l).draws = s.draws := by
  induction l generalizing s addr with
  | nil => rfl
  | cons b l ih => simp [State.putBytes, ih]

/-! ### `byteAt`: every update but a store leaves each byte -/

@[simp] theorem byteAt_setPc (s : State) (w : Word) (addr : Word) : (s.setPc w).byteAt addr = s.byteAt addr := by
  simp [State.byteAt]
@[simp] theorem byteAt_advance (s : State)  (addr : Word) : (s.advance).byteAt addr = s.byteAt addr := by
  simp [State.byteAt]
@[simp] theorem byteAt_setReg (s : State) (r : Reg) (w : Word) (addr : Word) : (s.setReg r w).byteAt addr = s.byteAt addr := by
  simp [State.byteAt]
@[simp] theorem byteAt_setSumFlags (s : State) (q : Sum) (addr : Word) : (s.setSumFlags q).byteAt addr = s.byteAt addr := by
  simp [State.byteAt]
@[simp] theorem byteAt_setResultFlags (s : State) (insn : CvInsn) (w : Word) (l : List Word) (addr : Word) : (s.setResultFlags insn w l).byteAt addr = s.byteAt addr := by
  simp [State.byteAt]

/-! ### `afterOperand`: `pc` past the immediate word, nothing else -/

@[simp] theorem afterOperand_a (s : State) (o : Operand) : (afterOperand s o).a = s.a := by cases o <;> rfl
@[simp] theorem afterOperand_x (s : State) (o : Operand) : (afterOperand s o).x = s.x := by cases o <;> rfl
@[simp] theorem afterOperand_y (s : State) (o : Operand) : (afterOperand s o).y = s.y := by cases o <;> rfl
@[simp] theorem afterOperand_sp (s : State) (o : Operand) : (afterOperand s o).sp = s.sp := by cases o <;> rfl
@[simp] theorem afterOperand_flags (s : State) (o : Operand) : (afterOperand s o).flags = s.flags := by cases o <;> rfl
@[simp] theorem afterOperand_mem (s : State) (o : Operand) : (afterOperand s o).mem = s.mem := by cases o <;> rfl
@[simp] theorem afterOperand_params (s : State) (o : Operand) : (afterOperand s o).params = s.params := by cases o <;> rfl
@[simp] theorem afterOperand_draws (s : State) (o : Operand) : (afterOperand s o).draws = s.draws := by cases o <;> rfl

@[simp] theorem afterOperand_pc (s : State) (o : Operand) :
    (afterOperand s o).pc = match o with | .imm16 _ => s.pc + 2#16 | _ => s.pc := by cases o <;> rfl

@[simp] theorem byteAt_afterOperand (s : State) (o : Operand) (addr : Word) :
    (afterOperand s o).byteAt addr = s.byteAt addr := by simp [State.byteAt]

end Sys2Proof.Machine
end

