-- ==== Sys2Proof/Laws/Flags.lean ====
section
/-! SUPPORT. What the adder, the complement, the extensions and the flag updates compute, in the terms the
statements use. -/

namespace Sys2Proof.Machine

/-! ### The adder -/

theorem add16_toNat (a b : Word) : (add16 a b).r.toNat = (a.toNat + b.toNat) % 65536 := by simp [add16]

theorem add16_r (a b : Word) : (add16 a b).r = a + b := by simp only [add16]; bv_omega

theorem add16_c (a b : Word) : (add16 a b).c = true ↔ 65536 ≤ a.toNat + b.toNat := by
  simp only [add16, decide_eq_true_eq]

theorem add16_v (a b : Word) : (add16 a b).v = true ↔
    a.getLsbD 15 = b.getLsbD 15 ∧ (add16 a b).r.getLsbD 15 ≠ a.getLsbD 15 := by
  simp [add16, BitVec.msb_eq_getLsbD_last]

theorem sub16_r (a b : Word) : (sub16 a b).r = a - b := by simp only [sub16]; bv_omega

theorem sub16_c (a b : Word) : (sub16 a b).c = true ↔ b.toNat ≤ a.toNat := by
  simp only [sub16, decide_eq_true_eq]
  omega

theorem sub16_v (a b : Word) : (sub16 a b).v = true ↔
    ¬ (-32768 ≤ a.toInt - b.toInt ∧ a.toInt - b.toInt ≤ 32767) := by
  have hr := sub16_r a b
  have ha := a.isLt
  have hb := b.isLt
  simp only [sub16] at hr ⊢
  rw [hr]
  simp only [BitVec.msb_eq_decide, BitVec.toInt_eq_toNat_cond, BitVec.toNat_sub, Bool.and_eq_true, bne_iff_ne, ne_eq,
    decide_eq_decide]
  split <;> split <;> omega

/-! ### Complement and extensions -/

theorem not16_toNat (b : Word) : (not16 b).toNat = 65535 - b.toNat := by
  simp [not16]
  omega

theorem not16_eq (b : Word) : not16 b = ~~~b := by simp only [not16]; bv_omega

theorem zext16_toNat (b : Byte) : (zext16 b).toNat = b.toNat := by
  simp [zext16]
  omega

theorem zext16_msb (b : Byte) : (zext16 b).msb = false := by
  rw [BitVec.msb_eq_decide, zext16_toNat]
  simp
  omega

/-- A relative target as the exact sum of `pc` and the signed offset (rule R153). -/
theorem ofInt_relative (pc : Word) (k : Byte) : BitVec.ofInt 16 ((pc.toNat : Int) + k.toInt) = pc + sext16 k := by
  rw [BitVec.ofInt_add, BitVec.ofInt_natCast, BitVec.ofNat_toNat, sext16, BitVec.signExtend]
  simp

theorem signExtendByte_low (b : Word) (n : Nat) (h : n < 8) : (signExtendByte b).getLsbD n = b.getLsbD n := by
  simp [signExtendByte, sext16, BitVec.getLsbD_signExtend, h]
  omega

theorem signExtendByte_high (b : Word) (n : Nat) (h : 8 ≤ n) (h' : n < 16) :
    (signExtendByte b).getLsbD n = b.getLsbD 7 := by
  rw [signExtendByte, sext16, BitVec.getLsbD_signExtend]
  simp [h', show ¬ n < 8 by omega, BitVec.msb_eq_getLsbD_last]

/-! ### The flag updates -/

theorem nzFrom_flagsOf (r : Word) (c v : Bool) : NZFrom r (flagsOf r c v) := by
  simp [NZFrom, BitVec.msb_eq_getLsbD_last]

/-- The flag update of a non-additive instruction leaves C and V open as `CVOpen` says, whatever registers were
written before it. -/
theorem cvOpen_setResultFlags (s u : State) (insn : CvInsn) (r : Word) (operands : List Word)
    (hp : u.params = s.params) (hd : u.draws = s.draws) :
    CVOpen s insn r operands (u.setResultFlags insn r operands) := by
  refine ⟨fun h => ?_, fun h => ?_, fun h => ?_, by simp [hd]⟩ <;> simp [nonarithCV, hp, h, hd]

theorem wordPopulated_iff (s : State) (addr : Word) :
    WordPopulated s addr ↔ s.populated addr = true ∧ s.populated (addr + 1#16) = true := by
  simp [WordPopulated, State.populated]

end Sys2Proof.Machine
end

