-- ==== Sys2Proof/Laws/Memory.lean ====
section
/-! SUPPORT. Memory: a write is read back and leaves every other byte; every memory operation keeps the
canonical form; equal memories are equal lists. -/

namespace Sys2Proof.Machine

theorem Memory.read_write_same (m : Memory) (a : Nat) (b : Byte) (lo : Nat) (h : Memory.canonicalFrom lo m) :
    (m.write a b).read a = b := by
  induction m generalizing lo with
  | nil => by_cases hb : b = Memory.unlisted <;> simp [Memory.write, Memory.read, hb]
  | cons cell rest ih =>
    obtain ⟨k, c⟩ := cell
    simp only [Memory.canonicalFrom, Bool.and_eq_true, decide_eq_true_eq] at h
    simp only [Memory.write]
    have absent : ∀ (l : Memory) (lo : Nat), Memory.canonicalFrom lo l → a < lo → l.read a = Memory.unlisted := by
      intro l
      induction l with
      | nil => intros; rfl
      | cons d l ihl =>
        obtain ⟨j, e⟩ := d
        intro lo hc hlt
        simp only [Memory.canonicalFrom, Bool.and_eq_true, decide_eq_true_eq] at hc
        rw [Memory.read, if_neg (by omega)]
        exact ihl _ hc.2 (by omega)
    split
    · split
      · rename_i hlt hb
        rw [Memory.read, if_neg (by omega), hb]
        exact absent rest _ h.2 (by omega)
      · simp [Memory.read]
    · split
      · rename_i hk
        split
        · rename_i hb
          rw [hb]
          exact absent rest _ h.2 (by omega)
        · simp [Memory.read]
      · rw [Memory.read, if_neg (by omega)]
        exact ih _ h.2

theorem Memory.read_write_other (m : Memory) (a a' : Nat) (b : Byte) (hne : a' ≠ a) :
    (m.write a b).read a' = m.read a' := by
  induction m with
  | nil => by_cases hb : b = Memory.unlisted <;> simp [Memory.write, Memory.read, hb, Ne.symm hne]
  | cons cell rest ih =>
    obtain ⟨k, c⟩ := cell
    simp only [Memory.write]
    split
    · split
      · rfl
      · simp [Memory.read, Ne.symm hne]
    · split
      · rename_i hk
        subst hk
        split <;> simp [Memory.read, Ne.symm hne]
      · simp only [Memory.read, ih]

theorem Memory.canonicalFrom_mono (m : Memory) {lo lo' : Nat} (hle : lo' ≤ lo) (h : Memory.canonicalFrom lo m) :
    Memory.canonicalFrom lo' m := by
  cases m with
  | nil => rfl
  | cons cell rest =>
    obtain ⟨k, c⟩ := cell
    simp only [Memory.canonicalFrom, Bool.and_eq_true, decide_eq_true_eq] at h ⊢
    exact ⟨⟨⟨by omega, h.1.1.2⟩, h.1.2⟩, h.2⟩

theorem Memory.write_canonicalFrom (m : Memory) (a lo : Nat) (b : Byte) (h : Memory.canonicalFrom lo m)
    (hlo : lo ≤ a) (ha : a < 65536) : Memory.canonicalFrom lo (m.write a b) := by
  induction m generalizing lo with
  | nil => by_cases hb : b = Memory.unlisted <;> simp [Memory.write, Memory.canonicalFrom, hb, hlo, ha]
  | cons cell rest ih =>
    obtain ⟨k, c⟩ := cell
    have h' := h
    simp only [Memory.canonicalFrom, Bool.and_eq_true, decide_eq_true_eq] at h
    simp only [Memory.write]
    split
    · split
      · exact h'
      · rename_i hlt hb
        simp only [Memory.canonicalFrom, Bool.and_eq_true, decide_eq_true_eq]
        exact ⟨⟨⟨hlo, ha⟩, hb⟩, ⟨⟨by omega, h.1.1.2⟩, h.1.2⟩, h.2⟩
    · split
      · rename_i hk
        split
        · exact Memory.canonicalFrom_mono rest (by omega) h.2
        · rename_i hb
          simp only [Memory.canonicalFrom, Bool.and_eq_true, decide_eq_true_eq]
          exact ⟨⟨⟨hlo, ha⟩, hb⟩, by rw [hk]; exact h.2⟩
      · simp only [Memory.canonicalFrom, Bool.and_eq_true, decide_eq_true_eq]
        exact ⟨h.1, ih _ h.2 (by omega)⟩

/-- The canonical form is kept by a store of one byte at a 16-bit address. -/
theorem Memory.write_wf (m : Memory) (a : Nat) (b : Byte) (h : m.wf) (ha : a < 65536) : (m.write a b).wf :=
  Memory.write_canonicalFrom m a 0 b h (Nat.zero_le _) ha

theorem putByte_wf (s : State) (addr : Word) (b : Byte) (h : s.mem.wf) : (s.putByte addr b).mem.wf :=
  Memory.write_wf s.mem addr.toNat b h addr.isLt

theorem putBytes_wf (s : State) (addr : Word) (l : List Byte) (h : s.mem.wf) : (s.putBytes addr l).mem.wf := by
  induction l generalizing s addr with
  | nil => exact h
  | cons b l ih => exact ih (s.putByte addr b) (addr + 1#16) (putByte_wf s addr b h)

/-- Each byte of a store reads back. -/
theorem byteAt_putByte_same (s : State) (addr : Word) (b : Byte) (h : s.mem.wf) :
    (s.putByte addr b).byteAt addr = b :=
  Memory.read_write_same s.mem addr.toNat b 0 h

/-- A store leaves every other byte. -/
theorem byteAt_putByte_other (s : State) (addr addr' : Word) (b : Byte) (hne : addr' ≠ addr) :
    (s.putByte addr b).byteAt addr' = s.byteAt addr' :=
  Memory.read_write_other s.mem addr.toNat addr'.toNat b fun h => hne (BitVec.eq_of_toNat_eq h)

theorem Memory.read_of_lt_canonicalFrom (m : Memory) (lo a : Nat) (h : Memory.canonicalFrom lo m) (ha : a < lo) :
    m.read a = Memory.unlisted := by
  induction m generalizing lo with
  | nil => rfl
  | cons cell rest ih =>
    obtain ⟨k, c⟩ := cell
    simp only [Memory.canonicalFrom, Bool.and_eq_true, decide_eq_true_eq] at h
    rw [Memory.read, if_neg (by omega)]
    exact ih _ h.2 (by omega)

/-- Two canonical memories that read alike at every address are the same list. -/
theorem Memory.eq_of_read_eq (m m' : Memory) (lo lo' : Nat) (h : Memory.canonicalFrom lo m)
    (h' : Memory.canonicalFrom lo' m') (same : ∀ a, m.read a = m'.read a) : m = m' := by
  induction m generalizing lo lo' m' with
  | nil =>
    cases m' with
    | nil => rfl
    | cons cell rest =>
      obtain ⟨k, c⟩ := cell
      simp only [Memory.canonicalFrom, Bool.and_eq_true, decide_eq_true_eq] at h'
      have hk := same k
      simp only [Memory.read, if_pos] at hk
      exact absurd hk.symm h'.1.2
  | cons cell rest ih =>
    obtain ⟨k, c⟩ := cell
    simp only [Memory.canonicalFrom, Bool.and_eq_true, decide_eq_true_eq] at h
    cases m' with
    | nil =>
      have hk := same k
      simp only [Memory.read, if_pos] at hk
      exact absurd hk h.1.2
    | cons cell' rest' =>
      obtain ⟨k', c'⟩ := cell'
      simp only [Memory.canonicalFrom, Bool.and_eq_true, decide_eq_true_eq] at h'
      have low := Memory.read_of_lt_canonicalFrom rest (k + 1)
      have low' := Memory.read_of_lt_canonicalFrom rest' (k' + 1)
      have heads : k = k' := by
        rcases Nat.lt_trichotomy k k' with hlt | heq | hgt
        · have hk := same k
          simp only [Memory.read, if_pos, if_neg (show ¬ k' = k by omega)] at hk
          rw [low' k h'.2 (by omega)] at hk
          exact absurd hk h.1.2
        · exact heq
        · have hk := same k'
          simp only [Memory.read, if_pos, if_neg (show ¬ k = k' by omega)] at hk
          rw [low k' h.2 (by omega)] at hk
          exact absurd hk.symm h'.1.2
      subst heads
      have hc := same k
      simp only [Memory.read, if_pos] at hc
      subst hc
      congr 1
      refine ih rest' (k + 1) (k + 1) h.2 h'.2 fun a => ?_
      have ha := same a
      simp only [Memory.read] at ha
      split at ha
      · rename_i hka
        subst hka
        rw [low _ h.2 (by omega), low' _ h'.2 (by omega)]
      · exact ha

/-- A store inside the populated addresses lists nothing outside them. -/
theorem Memory.write_all_below (m : Memory) (a n : Nat) (b : Byte) (h : ∀ cell ∈ m, cell.1 < n) (ha : a < n) :
    ∀ cell ∈ m.write a b, cell.1 < n := by
  induction m with
  | nil =>
    simp only [Memory.write]
    split <;> simp [ha]
  | cons cell rest ih =>
    obtain ⟨k, c⟩ := cell
    simp only [List.forall_mem_cons] at h
    simp only [Memory.write]
    split
    · split <;> simp only [List.forall_mem_cons]
      · exact h
      · exact ⟨ha, h⟩
    · split
      · split
        · exact h.2
        · exact List.forall_mem_cons.2 ⟨ha, h.2⟩
      · exact List.forall_mem_cons.2 ⟨h.1, ih h.2⟩

/-- Memory after reset is in canonical form. -/
theorem reset_mem_wf : State.reset.mem.wf := rfl

end Sys2Proof.Machine
end

