-- ==== Sys2Proof/Laws/Ops.lean ====
section
/-! SUPPORT. For each shared operation, once, everything it can do. The provers cite these instead of
unfolding the operation. -/

namespace Sys2Proof.Machine

/-! ### Accesses -/

theorem readByte_ok_iff (s : State) (addr : Word) (b : Byte) :
    s.readByte addr = .ok b ↔ s.populated addr ∧ s.byteAt addr = b := by
  unfold State.readByte; split <;> simp_all

theorem readByte_error_iff (s : State) (addr bad : Word) :
    s.readByte addr = .error bad ↔ s.populated addr = false ∧ addr = bad := by
  unfold State.readByte; split <;> simp_all

theorem checkWord_ok_iff (s : State) (addr : Word) :
    s.checkWord addr = .ok () ↔ s.populated addr ∧ s.populated (addr + 1#16) := by
  unfold State.checkWord; split <;> (try split) <;> simp_all

theorem checkWord_error_iff (s : State) (addr bad : Word) :
    s.checkWord addr = .error bad ↔
      (s.populated addr = false ∧ bad = addr) ∨
        (s.populated addr ∧ s.populated (addr + 1#16) = false ∧ bad = addr + 1#16) := by
  unfold State.checkWord
  cases s.populated addr <;> cases s.populated (addr + 1#16) <;> simp [eq_comm]

theorem readWord_ok_iff (s : State) (addr w : Word) :
    s.readWord addr = .ok w ↔
      (s.populated addr ∧ s.populated (addr + 1#16)) ∧
        joinBytes s.params.byteOrder (s.byteAt addr) (s.byteAt (addr + 1#16)) = w := by
  unfold State.readWord
  cases h : s.checkWord addr with
  | ok u => simp [Except.map, (checkWord_ok_iff s addr).1 h]
  | error e =>
    have : ¬ (s.populated addr ∧ s.populated (addr + 1#16)) := fun hp => by
      rw [(checkWord_ok_iff s addr).2 hp] at h; cases h
    simp [Except.map, this]

theorem readWord_error_iff (s : State) (addr bad : Word) :
    s.readWord addr = .error bad ↔ s.checkWord addr = .error bad := by
  unfold State.readWord
  cases s.checkWord addr <;> simp [Except.map]

theorem writeByte_ok_iff (s t : State) (addr : Word) (b : Byte) :
    s.writeByte addr b = .ok t ↔ s.populated addr ∧ s.putByte addr b = t := by
  unfold State.writeByte; split <;> simp_all

theorem writeByte_error_iff (s : State) (addr bad : Word) (b : Byte) :
    s.writeByte addr b = .error bad ↔ s.populated addr = false ∧ addr = bad := by
  unfold State.writeByte; split <;> simp_all

theorem writeWord_ok_iff (s t : State) (addr w : Word) :
    s.writeWord addr w = .ok t ↔
      (s.populated addr ∧ s.populated (addr + 1#16)) ∧
        s.putBytes addr (wordBytes s.params.byteOrder w) = t := by
  unfold State.writeWord
  cases h : s.checkWord addr with
  | ok u => simp [Except.map, (checkWord_ok_iff s addr).1 h]
  | error e =>
    have : ¬ (s.populated addr ∧ s.populated (addr + 1#16)) := fun hp => by
      rw [(checkWord_ok_iff s addr).2 hp] at h; cases h
    simp [Except.map, this]

theorem writeWord_error_iff (s : State) (addr bad w : Word) :
    s.writeWord addr w = .error bad ↔ s.checkWord addr = .error bad := by
  unfold State.writeWord
  cases s.checkWord addr <;> simp [Except.map]

/-- An access goes on exactly when it answers a value. -/
theorem accessing_next_iff {α : Type} (s t : State) (answer : Except Word α) (go : α → Outcome) :
    accessing s answer go = .next t ↔ ∃ value, answer = .ok value ∧ go value = .next t := by
  cases answer <;> simp [accessing]

theorem accessing_ok {α : Type} (s : State) (value : α) (go : α → Outcome) :
    accessing s (.ok value) go = go value := rfl

theorem accessing_error {α : Type} (s : State) (addr : Word) (go : α → Outcome) :
    accessing s (.error addr) go = .fault (.unpopulatedAccess (s.pc - 2#16) addr) := rfl

/-! ### Words in memory -/

theorem addr_succ_ne (addr : Word) : addr + 1#16 ≠ addr := by
  bv_omega

/-- The two bytes of a stored word. -/
theorem putWord_eq (s : State) (addr w : Word) (bo : ByteOrder) :
    s.putBytes addr (wordBytes bo w) = (s.putByte addr (splitWord bo w).1).putByte (addr + 1#16) (splitWord bo w).2 := rfl

theorem byteAt_putWord_low (s : State) (addr w : Word) (bo : ByteOrder) (h : s.mem.wf) :
    (s.putBytes addr (wordBytes bo w)).byteAt addr = (splitWord bo w).1 := by
  rw [putWord_eq, byteAt_putByte_other _ _ _ _ (addr_succ_ne addr).symm]
  exact byteAt_putByte_same s addr _ h

theorem byteAt_putWord_high (s : State) (addr w : Word) (bo : ByteOrder) (h : s.mem.wf) :
    (s.putBytes addr (wordBytes bo w)).byteAt (addr + 1#16) = (splitWord bo w).2 := by
  rw [putWord_eq]
  exact byteAt_putByte_same _ _ _ (putByte_wf s addr _ h)

theorem byteAt_putWord_other (s : State) (addr addr' w : Word) (bo : ByteOrder) (h0 : addr' ≠ addr)
    (h1 : addr' ≠ addr + 1#16) : (s.putBytes addr (wordBytes bo w)).byteAt addr' = s.byteAt addr' := by
  rw [putWord_eq, byteAt_putByte_other _ _ _ _ h1, byteAt_putByte_other _ _ _ _ h0]

/-! ### Instruction schemes -/

theorem sumToA_next (sum : Word → Word → Sum) (ra : Reg) (o : Operand) (s : State) :
    sumToA sum ra o s = .next (((afterOperand s o).setReg .a (sum (s.reg ra) (operandValue s o)).r).setSumFlags
      (sum (s.reg ra) (operandValue s o))) := rfl

theorem sumToFlags_next (sum : Word → Word → Sum) (ra : Reg) (o : Operand) (s : State) :
    sumToFlags sum ra o s = .next ((afterOperand s o).setSumFlags (sum (s.reg ra) (operandValue s o))) := rfl

theorem logicToA_next (insn : CvInsn) (f : Word → Word → Word) (ra : Reg) (o : Operand) (s : State) :
    logicToA insn f ra o s = .next (((afterOperand s o).setReg .a (f (s.reg ra) (operandValue s o))).setResultFlags
      insn (f (s.reg ra) (operandValue s o)) [s.reg ra, operandValue s o]) := rfl

theorem unaryToA_next (insn : CvInsn) (f : Word → Word) (o : Operand) (s : State) :
    unaryToA insn f o s = .next (((afterOperand s o).setReg .a (f (operandValue s o))).setResultFlags
      insn (f (operandValue s o)) [operandValue s o]) := rfl

theorem shiftToA_next (insn : CvInsn) (shift : Word → Nat → Word) (ra : Reg) (n : Nat) (s : State) :
    shiftToA insn shift ra n s = .next ((s.setReg .a (shift (s.reg ra) n)).setResultFlags
      insn (shift (s.reg ra) n) [s.reg ra, BitVec.ofNat 16 n]) := rfl

theorem jump_next (c : Cond) (t : Target) (s : State) :
    jump c t s = .next (s.setPc (if condHolds s.flags c then targetAddress s t else afterTarget s t)) := rfl

theorem loadWord_next_iff (ra : Reg) (o : Operand) (s t : State) :
    loadWord ra o s = .next t ↔
      (s.populated (effectiveAddress s ra o) ∧ s.populated (effectiveAddress s ra o + 1#16)) ∧
        loadedToA .lda (effectiveAddress s ra o) o s (joinBytes s.params.byteOrder
          (s.byteAt (effectiveAddress s ra o)) (s.byteAt (effectiveAddress s ra o + 1#16))) = .next t := by
  simp only [loadWord, accessing_next_iff, readWord_ok_iff]
  grind

theorem loadByte_next_iff (ra : Reg) (o : Operand) (s t : State) :
    loadByte ra o s = .next t ↔
      s.populated (effectiveAddress s ra o) ∧
        loadedToA .ldab (effectiveAddress s ra o) o s (zext16 (s.byteAt (effectiveAddress s ra o))) = .next t := by
  simp only [loadByte, accessing_next_iff, readByte_ok_iff]
  grind

theorem storeWord_next_iff (ra : Reg) (o : Operand) (s t : State) :
    storeWord ra o s = .next t ↔
      (s.populated (effectiveAddress s ra o) ∧ s.populated (effectiveAddress s ra o + 1#16)) ∧
        t = afterOperand (s.putBytes (effectiveAddress s ra o) (wordBytes s.params.byteOrder s.a)) o := by
  simp only [storeWord, accessing_next_iff, writeWord_ok_iff]
  grind

theorem storeByte_next_iff (ra : Reg) (o : Operand) (s t : State) :
    storeByte ra o s = .next t ↔
      s.populated (effectiveAddress s ra o) ∧
        t = afterOperand (s.putByte (effectiveAddress s ra o) (s.a.extractLsb' 0 8)) o := by
  simp only [storeByte, accessing_next_iff, writeByte_ok_iff]
  grind

theorem jumpAndPush_next_iff (g : Target) (s t : State) :
    jumpAndPush g s = .next t ↔
      (s.populated s.sp ∧ s.populated (s.sp + 1#16)) ∧
        t = (s.putBytes s.sp (wordBytes s.params.byteOrder (afterTarget s g))).setPc (targetAddress s g) := by
  simp only [jumpAndPush, accessing_next_iff, writeWord_ok_iff]
  grind

end Sys2Proof.Machine
end

