-- ==== Sys2Proof/Laws/PerInstr.lean ====
section
/-! SUPPORT. A family of facts, one per instruction as syntax: it is encoded as its row of the opcode table
says. -/

namespace Sys2Proof.Laws.EncodesAsRow

open Sys2Proof.Machine

/-- The first word tells the length, the second word is there exactly in the 4-byte format, and the don't-care
bits are written as 0 (rules R80, R81, R85, R100). -/
def Statement (i : Instr) : Prop :=
  isLong i.firstWord = decide (i.size = 4) ∧ i.secondWord.isSome = decide (i.size = 4) ∧ i.firstWord &&& i.dontCare = 0

/-- A word whose bit 8 is 0 is not long. -/
theorem isLong_of_bit8 {ir : Word} (h : ir.getLsbD 8 = false) : isLong ir = false := by
  simp only [isLong, modeBit, h, Bool.false_and]

/-- A one-word instruction in which bit 8 is 0. -/
theorem of_short {i : Instr} (hs : i.size = 2) (hw : i.secondWord = none) (h : i.firstWord.getLsbD 8 = false)
    (hd : i.firstWord &&& i.dontCare = 0) : Statement i :=
  ⟨by rw [isLong_of_bit8 h, hs]; rfl, by rw [hw, hs]; rfl, hd⟩

/-- Bit 8 of a base word with a register id in bits 10:9 and an immediate below bit 8. -/
theorem bit8_clear {w : Nat} (base : Word) (r : Reg) (imm : BitVec w) (hw : w ≤ 8) (h : base.getLsbD 8 = false) :
    (base ||| raBits r ||| imm.setWidth 16).getLsbD 8 = false := by
  rw [BitVec.getLsbD_or, BitVec.getLsbD_or, h, getLsbD_raBits, getLsbD_imm_of_le imm 8 hw]
  rfl

theorem bit8_clear' {w : Nat} (base : Word) (imm : BitVec w) (hw : w ≤ 8) (h : base.getLsbD 8 = false) :
    (base ||| imm.setWidth 16).getLsbD 8 = false := by
  rw [BitVec.getLsbD_or, h, getLsbD_imm_of_le imm 8 hw]
  rfl

/-- A base word and an immediate that both miss a mask. -/
theorem and_mask_clear {w : Nat} (base mask : Word) (imm : BitVec w) (hb : base &&& mask = 0)
    (hm : ∀ i < w, mask.getLsbD i = false) : (base ||| imm.setWidth 16) &&& mask = 0 := by
  rw [BitVec.and_or_distrib_right, hb, imm_and_mask imm mask hm]
  rfl

theorem addI8 (ra : Reg) (imm8 : Byte) : Statement (.addI8 ra imm8) :=
  of_short rfl rfl (bit8_clear _ ra imm8 (by decide) (by decide)) (BitVec.and_zero)

theorem addI16 (ra : Reg) (imm16 : Word) : Statement (.addI16 ra imm16) :=
  ⟨(by cases ra <;> decide : isLong (0x0100 ||| raBits ra) = true), rfl,
    (by cases ra <;> decide : ((0x0100 ||| raBits ra : Word) &&& 0x007F) = 0)⟩

theorem addRR (ra : Reg) (rb : Reg) : Statement (.addRR ra rb) :=
  ⟨(by cases ra <;> cases rb <;> decide : isLong (0x0180 ||| raBits ra ||| rbBits rb) = false), rfl,
    (by cases ra <;> cases rb <;> decide : ((0x0180 ||| raBits ra ||| rbBits rb : Word) &&& 0x001F) = 0)⟩

theorem subI8 (ra : Reg) (imm8 : Byte) : Statement (.subI8 ra imm8) :=
  of_short rfl rfl (bit8_clear _ ra imm8 (by decide) (by decide)) (BitVec.and_zero)

theorem subI16 (ra : Reg) (imm16 : Word) : Statement (.subI16 ra imm16) :=
  ⟨(by cases ra <;> decide : isLong (0x0900 ||| raBits ra) = true), rfl,
    (by cases ra <;> decide : ((0x0900 ||| raBits ra : Word) &&& 0x007F) = 0)⟩

theorem subRR (ra : Reg) (rb : Reg) : Statement (.subRR ra rb) :=
  ⟨(by cases ra <;> cases rb <;> decide : isLong (0x0980 ||| raBits ra ||| rbBits rb) = false), rfl,
    (by cases ra <;> cases rb <;> decide : ((0x0980 ||| raBits ra ||| rbBits rb : Word) &&& 0x001F) = 0)⟩

theorem cmpI8 (ra : Reg) (imm8 : Byte) : Statement (.cmpI8 ra imm8) :=
  of_short rfl rfl (bit8_clear _ ra imm8 (by decide) (by decide)) (BitVec.and_zero)

theorem cmpI16 (ra : Reg) (imm16 : Word) : Statement (.cmpI16 ra imm16) :=
  ⟨(by cases ra <;> decide : isLong (0x1100 ||| raBits ra) = true), rfl,
    (by cases ra <;> decide : ((0x1100 ||| raBits ra : Word) &&& 0x007F) = 0)⟩

theorem cmpRR (ra : Reg) (rb : Reg) : Statement (.cmpRR ra rb) :=
  ⟨(by cases ra <;> cases rb <;> decide : isLong (0x1180 ||| raBits ra ||| rbBits rb) = false), rfl,
    (by cases ra <;> cases rb <;> decide : ((0x1180 ||| raBits ra ||| rbBits rb : Word) &&& 0x001F) = 0)⟩

theorem sgxI8 (imm8 : Byte) : Statement (.sgxI8 imm8) :=
  of_short rfl rfl (bit8_clear' _ imm8 (by decide) (by decide))
    (and_mask_clear 0x1800 (0x0000 ||| 0x0600) imm8 (by decide) (by decide))

theorem sgxI16 (imm16 : Word) : Statement (.sgxI16 imm16) :=
  ⟨(by decide : isLong (0x1900) = true), rfl,
    (by decide : ((0x1900 : Word) &&& (0x007F ||| 0x0600)) = 0)⟩

theorem sgxRR (raCopy : Reg) (rb : Reg) : Statement (.sgxRR raCopy rb) :=
  ⟨(by cases raCopy <;> cases rb <;> decide : isLong (0x1980 ||| raBits raCopy ||| rbBits rb) = false), rfl,
    (by cases raCopy <;> cases rb <;> decide : ((0x1980 ||| raBits raCopy ||| rbBits rb : Word) &&& 0x001F) = 0)⟩

theorem andI8 (ra : Reg) (imm8 : Byte) : Statement (.andI8 ra imm8) :=
  of_short rfl rfl (bit8_clear _ ra imm8 (by decide) (by decide)) (BitVec.and_zero)

theorem andI16 (ra : Reg) (imm16 : Word) : Statement (.andI16 ra imm16) :=
  ⟨(by cases ra <;> decide : isLong (0x2100 ||| raBits ra) = true), rfl,
    (by cases ra <;> decide : ((0x2100 ||| raBits ra : Word) &&& 0x007F) = 0)⟩

theorem andRR (ra : Reg) (rb : Reg) : Statement (.andRR ra rb) :=
  ⟨(by cases ra <;> cases rb <;> decide : isLong (0x2180 ||| raBits ra ||| rbBits rb) = false), rfl,
    (by cases ra <;> cases rb <;> decide : ((0x2180 ||| raBits ra ||| rbBits rb : Word) &&& 0x001F) = 0)⟩

theorem orI8 (ra : Reg) (imm8 : Byte) : Statement (.orI8 ra imm8) :=
  of_short rfl rfl (bit8_clear _ ra imm8 (by decide) (by decide)) (BitVec.and_zero)

theorem orI16 (ra : Reg) (imm16 : Word) : Statement (.orI16 ra imm16) :=
  ⟨(by cases ra <;> decide : isLong (0x2900 ||| raBits ra) = true), rfl,
    (by cases ra <;> decide : ((0x2900 ||| raBits ra : Word) &&& 0x007F) = 0)⟩

theorem orRR (ra : Reg) (rb : Reg) : Statement (.orRR ra rb) :=
  ⟨(by cases ra <;> cases rb <;> decide : isLong (0x2980 ||| raBits ra ||| rbBits rb) = false), rfl,
    (by cases ra <;> cases rb <;> decide : ((0x2980 ||| raBits ra ||| rbBits rb : Word) &&& 0x001F) = 0)⟩

theorem xorI8 (ra : Reg) (imm8 : Byte) : Statement (.xorI8 ra imm8) :=
  of_short rfl rfl (bit8_clear _ ra imm8 (by decide) (by decide)) (BitVec.and_zero)

theorem xorI16 (ra : Reg) (imm16 : Word) : Statement (.xorI16 ra imm16) :=
  ⟨(by cases ra <;> decide : isLong (0x3100 ||| raBits ra) = true), rfl,
    (by cases ra <;> decide : ((0x3100 ||| raBits ra : Word) &&& 0x007F) = 0)⟩

theorem xorRR (ra : Reg) (rb : Reg) : Statement (.xorRR ra rb) :=
  ⟨(by cases ra <;> cases rb <;> decide : isLong (0x3180 ||| raBits ra ||| rbBits rb) = false), rfl,
    (by cases ra <;> cases rb <;> decide : ((0x3180 ||| raBits ra ||| rbBits rb : Word) &&& 0x001F) = 0)⟩

theorem invI8 (imm8 : Byte) : Statement (.invI8 imm8) :=
  of_short rfl rfl (bit8_clear' _ imm8 (by decide) (by decide))
    (and_mask_clear 0x3800 (0x0000 ||| 0x0600) imm8 (by decide) (by decide))

theorem invI16 (imm16 : Word) : Statement (.invI16 imm16) :=
  ⟨(by decide : isLong (0x3900) = true), rfl,
    (by decide : ((0x3900 : Word) &&& (0x007F ||| 0x0600)) = 0)⟩

theorem invRR (rb : Reg) : Statement (.invRR rb) :=
  ⟨(by cases rb <;> decide : isLong (0x3980 ||| rbBits rb) = false), rfl,
    (by cases rb <;> decide : ((0x3980 ||| rbBits rb : Word) &&& (0x001F ||| 0x0600)) = 0)⟩

theorem sllSHI (ra : Reg) (amount : BitVec 4) : Statement (.sllSHI ra amount) :=
  of_short rfl rfl (bit8_clear _ ra amount (by decide) (by decide))
    (and_mask_clear (0x4000 ||| raBits ra) 0x0060 amount (by cases ra <;> decide) (by decide))

theorem sllSHR (ra : Reg) (rb : Reg) : Statement (.sllSHR ra rb) :=
  ⟨(by cases ra <;> cases rb <;> decide : isLong (0x4100 ||| raBits ra ||| rbBits rb) = false), rfl,
    (by cases ra <;> cases rb <;> decide : ((0x4100 ||| raBits ra ||| rbBits rb : Word) &&& 0x000F) = 0)⟩

theorem srlSHI (ra : Reg) (amount : BitVec 4) : Statement (.srlSHI ra amount) :=
  of_short rfl rfl (bit8_clear _ ra amount (by decide) (by decide))
    (and_mask_clear (0x4010 ||| raBits ra) 0x0060 amount (by cases ra <;> decide) (by decide))

theorem srlSHR (ra : Reg) (rb : Reg) : Statement (.srlSHR ra rb) :=
  ⟨(by cases ra <;> cases rb <;> decide : isLong (0x4110 ||| raBits ra ||| rbBits rb) = false), rfl,
    (by cases ra <;> cases rb <;> decide : ((0x4110 ||| raBits ra ||| rbBits rb : Word) &&& 0x000F) = 0)⟩

theorem sraSHI (ra : Reg) (amount : BitVec 4) : Statement (.sraSHI ra amount) :=
  of_short rfl rfl (bit8_clear _ ra amount (by decide) (by decide))
    (and_mask_clear (0x4080 ||| raBits ra) 0x0060 amount (by cases ra <;> decide) (by decide))

theorem sraSHR (ra : Reg) (rb : Reg) : Statement (.sraSHR ra rb) :=
  ⟨(by cases ra <;> cases rb <;> decide : isLong (0x4180 ||| raBits ra ||| rbBits rb) = false), rfl,
    (by cases ra <;> cases rb <;> decide : ((0x4180 ||| raBits ra ||| rbBits rb : Word) &&& 0x000F) = 0)⟩

theorem srrSHI (ra : Reg) (amount : BitVec 4) : Statement (.srrSHI ra amount) :=
  of_short rfl rfl (bit8_clear _ ra amount (by decide) (by decide))
    (and_mask_clear (0x4090 ||| raBits ra) 0x0060 amount (by cases ra <;> decide) (by decide))

theorem srrSHR (ra : Reg) (rb : Reg) : Statement (.srrSHR ra rb) :=
  ⟨(by cases ra <;> cases rb <;> decide : isLong (0x4190 ||| raBits ra ||| rbBits rb) = false), rfl,
    (by cases ra <;> cases rb <;> decide : ((0x4190 ||| raBits ra ||| rbBits rb : Word) &&& 0x000F) = 0)⟩

theorem swp (ra : Reg) : Statement (.swp ra) :=
  ⟨(by cases ra <;> decide : isLong (0x4800 ||| raBits ra) = false), rfl,
    (by cases ra <;> decide : ((0x4800 ||| raBits ra : Word) &&& 0x01FF) = 0)⟩

theorem hcf : Statement (.hcf) :=
  ⟨(by decide : isLong (0x5000) = false), rfl,
    (by decide : ((0x5000 : Word) &&& 0x07FF) = 0)⟩

theorem ldaI8 (ra : Reg) (imm8 : Byte) : Statement (.ldaI8 ra imm8) :=
  of_short rfl rfl (bit8_clear _ ra imm8 (by decide) (by decide)) (BitVec.and_zero)

theorem ldaI16 (ra : Reg) (imm16 : Word) : Statement (.ldaI16 ra imm16) :=
  ⟨(by cases ra <;> decide : isLong (0x6100 ||| raBits ra) = true), rfl,
    (by cases ra <;> decide : ((0x6100 ||| raBits ra : Word) &&& 0x007F) = 0)⟩

theorem ldaRR (ra : Reg) (rb : Reg) : Statement (.ldaRR ra rb) :=
  ⟨(by cases ra <;> cases rb <;> decide : isLong (0x6180 ||| raBits ra ||| rbBits rb) = false), rfl,
    (by cases ra <;> cases rb <;> decide : ((0x6180 ||| raBits ra ||| rbBits rb : Word) &&& 0x001F) = 0)⟩

theorem ldabI8 (ra : Reg) (imm8 : Byte) : Statement (.ldabI8 ra imm8) :=
  of_short rfl rfl (bit8_clear _ ra imm8 (by decide) (by decide)) (BitVec.and_zero)

theorem ldabI16 (ra : Reg) (imm16 : Word) : Statement (.ldabI16 ra imm16) :=
  ⟨(by cases ra <;> decide : isLong (0x6900 ||| raBits ra) = true), rfl,
    (by cases ra <;> decide : ((0x6900 ||| raBits ra : Word) &&& 0x007F) = 0)⟩

theorem ldabRR (ra : Reg) (rb : Reg) : Statement (.ldabRR ra rb) :=
  ⟨(by cases ra <;> cases rb <;> decide : isLong (0x6980 ||| raBits ra ||| rbBits rb) = false), rfl,
    (by cases ra <;> cases rb <;> decide : ((0x6980 ||| raBits ra ||| rbBits rb : Word) &&& 0x001F) = 0)⟩

theorem staI8 (ra : Reg) (imm8 : Byte) : Statement (.staI8 ra imm8) :=
  of_short rfl rfl (bit8_clear _ ra imm8 (by decide) (by decide)) (BitVec.and_zero)

theorem staI16 (ra : Reg) (imm16 : Word) : Statement (.staI16 ra imm16) :=
  ⟨(by cases ra <;> decide : isLong (0x7100 ||| raBits ra) = true), rfl,
    (by cases ra <;> decide : ((0x7100 ||| raBits ra : Word) &&& 0x007F) = 0)⟩

theorem staRR (ra : Reg) (rb : Reg) : Statement (.staRR ra rb) :=
  ⟨(by cases ra <;> cases rb <;> decide : isLong (0x7180 ||| raBits ra ||| rbBits rb) = false), rfl,
    (by cases ra <;> cases rb <;> decide : ((0x7180 ||| raBits ra ||| rbBits rb : Word) &&& 0x001F) = 0)⟩

theorem stabI8 (ra : Reg) (imm8 : Byte) : Statement (.stabI8 ra imm8) :=
  of_short rfl rfl (bit8_clear _ ra imm8 (by decide) (by decide)) (BitVec.and_zero)

theorem stabI16 (ra : Reg) (imm16 : Word) : Statement (.stabI16 ra imm16) :=
  ⟨(by cases ra <;> decide : isLong (0x7900 ||| raBits ra) = true), rfl,
    (by cases ra <;> decide : ((0x7900 ||| raBits ra : Word) &&& 0x007F) = 0)⟩

theorem stabRR (ra : Reg) (rb : Reg) : Statement (.stabRR ra rb) :=
  ⟨(by cases ra <;> cases rb <;> decide : isLong (0x7980 ||| raBits ra ||| rbBits rb) = false), rfl,
    (by cases ra <;> cases rb <;> decide : ((0x7980 ||| raBits ra ||| rbBits rb : Word) &&& 0x001F) = 0)⟩

theorem jncI8 (imm8 : Byte) : Statement (.jncI8 imm8) :=
  of_short rfl rfl (bit8_clear' _ imm8 (by decide) (by decide))
    (and_mask_clear 0x8000 (0x0000 ||| 0x0600) imm8 (by decide) (by decide))

theorem jncI16 (imm16 : Word) : Statement (.jncI16 imm16) :=
  ⟨(by decide : isLong (0x8100) = true), rfl,
    (by decide : ((0x8100 : Word) &&& (0x007F ||| 0x0600)) = 0)⟩

theorem jncRR (rb : Reg) : Statement (.jncRR rb) :=
  ⟨(by cases rb <;> decide : isLong (0x8180 ||| rbBits rb) = false), rfl,
    (by cases rb <;> decide : ((0x8180 ||| rbBits rb : Word) &&& (0x001F ||| 0x0600)) = 0)⟩

theorem jnsI8 (imm8 : Byte) : Statement (.jnsI8 imm8) :=
  of_short rfl rfl (bit8_clear' _ imm8 (by decide) (by decide))
    (and_mask_clear 0x8800 (0x0000 ||| 0x0600) imm8 (by decide) (by decide))

theorem jnsI16 (imm16 : Word) : Statement (.jnsI16 imm16) :=
  ⟨(by decide : isLong (0x8900) = true), rfl,
    (by decide : ((0x8900 : Word) &&& (0x007F ||| 0x0600)) = 0)⟩

theorem jnsRR (rb : Reg) : Statement (.jnsRR rb) :=
  ⟨(by cases rb <;> decide : isLong (0x8980 ||| rbBits rb) = false), rfl,
    (by cases rb <;> decide : ((0x8980 ||| rbBits rb : Word) &&& (0x001F ||| 0x0600)) = 0)⟩

theorem jneI8 (imm8 : Byte) : Statement (.jneI8 imm8) :=
  of_short rfl rfl (bit8_clear' _ imm8 (by decide) (by decide))
    (and_mask_clear 0x9000 (0x0000 ||| 0x0600) imm8 (by decide) (by decide))

theorem jneI16 (imm16 : Word) : Statement (.jneI16 imm16) :=
  ⟨(by decide : isLong (0x9100) = true), rfl,
    (by decide : ((0x9100 : Word) &&& (0x007F ||| 0x0600)) = 0)⟩

theorem jneRR (rb : Reg) : Statement (.jneRR rb) :=
  ⟨(by cases rb <;> decide : isLong (0x9180 ||| rbBits rb) = false), rfl,
    (by cases rb <;> decide : ((0x9180 ||| rbBits rb : Word) &&& (0x001F ||| 0x0600)) = 0)⟩

theorem jeqI8 (imm8 : Byte) : Statement (.jeqI8 imm8) :=
  of_short rfl rfl (bit8_clear' _ imm8 (by decide) (by decide))
    (and_mask_clear 0x9800 (0x0000 ||| 0x0600) imm8 (by decide) (by decide))

theorem jeqI16 (imm16 : Word) : Statement (.jeqI16 imm16) :=
  ⟨(by decide : isLong (0x9900) = true), rfl,
    (by decide : ((0x9900 : Word) &&& (0x007F ||| 0x0600)) = 0)⟩

theorem jeqRR (rb : Reg) : Statement (.jeqRR rb) :=
  ⟨(by cases rb <;> decide : isLong (0x9980 ||| rbBits rb) = false), rfl,
    (by cases rb <;> decide : ((0x9980 ||| rbBits rb : Word) &&& (0x001F ||| 0x0600)) = 0)⟩

theorem jloI8 (imm8 : Byte) : Statement (.jloI8 imm8) :=
  of_short rfl rfl (bit8_clear' _ imm8 (by decide) (by decide))
    (and_mask_clear 0xA000 (0x0000 ||| 0x0600) imm8 (by decide) (by decide))

theorem jloI16 (imm16 : Word) : Statement (.jloI16 imm16) :=
  ⟨(by decide : isLong (0xA100) = true), rfl,
    (by decide : ((0xA100 : Word) &&& (0x007F ||| 0x0600)) = 0)⟩

theorem jloRR (rb : Reg) : Statement (.jloRR rb) :=
  ⟨(by cases rb <;> decide : isLong (0xA180 ||| rbBits rb) = false), rfl,
    (by cases rb <;> decide : ((0xA180 ||| rbBits rb : Word) &&& (0x001F ||| 0x0600)) = 0)⟩

theorem jhsI8 (imm8 : Byte) : Statement (.jhsI8 imm8) :=
  of_short rfl rfl (bit8_clear' _ imm8 (by decide) (by decide))
    (and_mask_clear 0xA800 (0x0000 ||| 0x0600) imm8 (by decide) (by decide))

theorem jhsI16 (imm16 : Word) : Statement (.jhsI16 imm16) :=
  ⟨(by decide : isLong (0xA900) = true), rfl,
    (by decide : ((0xA900 : Word) &&& (0x007F ||| 0x0600)) = 0)⟩

theorem jhsRR (rb : Reg) : Statement (.jhsRR rb) :=
  ⟨(by cases rb <;> decide : isLong (0xA980 ||| rbBits rb) = false), rfl,
    (by cases rb <;> decide : ((0xA980 ||| rbBits rb : Word) &&& (0x001F ||| 0x0600)) = 0)⟩

theorem jvcI8 (imm8 : Byte) : Statement (.jvcI8 imm8) :=
  of_short rfl rfl (bit8_clear' _ imm8 (by decide) (by decide))
    (and_mask_clear 0xB000 (0x0000 ||| 0x0600) imm8 (by decide) (by decide))

theorem jvcI16 (imm16 : Word) : Statement (.jvcI16 imm16) :=
  ⟨(by decide : isLong (0xB100) = true), rfl,
    (by decide : ((0xB100 : Word) &&& (0x007F ||| 0x0600)) = 0)⟩

theorem jvcRR (rb : Reg) : Statement (.jvcRR rb) :=
  ⟨(by cases rb <;> decide : isLong (0xB180 ||| rbBits rb) = false), rfl,
    (by cases rb <;> decide : ((0xB180 ||| rbBits rb : Word) &&& (0x001F ||| 0x0600)) = 0)⟩

theorem jvsI8 (imm8 : Byte) : Statement (.jvsI8 imm8) :=
  of_short rfl rfl (bit8_clear' _ imm8 (by decide) (by decide))
    (and_mask_clear 0xB800 (0x0000 ||| 0x0600) imm8 (by decide) (by decide))

theorem jvsI16 (imm16 : Word) : Statement (.jvsI16 imm16) :=
  ⟨(by decide : isLong (0xB900) = true), rfl,
    (by decide : ((0xB900 : Word) &&& (0x007F ||| 0x0600)) = 0)⟩

theorem jvsRR (rb : Reg) : Statement (.jvsRR rb) :=
  ⟨(by cases rb <;> decide : isLong (0xB980 ||| rbBits rb) = false), rfl,
    (by cases rb <;> decide : ((0xB980 ||| rbBits rb : Word) &&& (0x001F ||| 0x0600)) = 0)⟩

theorem jgeI8 (imm8 : Byte) : Statement (.jgeI8 imm8) :=
  of_short rfl rfl (bit8_clear' _ imm8 (by decide) (by decide))
    (and_mask_clear 0xC000 (0x0000 ||| 0x0600) imm8 (by decide) (by decide))

theorem jgeI16 (imm16 : Word) : Statement (.jgeI16 imm16) :=
  ⟨(by decide : isLong (0xC100) = true), rfl,
    (by decide : ((0xC100 : Word) &&& (0x007F ||| 0x0600)) = 0)⟩

theorem jgeRR (rb : Reg) : Statement (.jgeRR rb) :=
  ⟨(by cases rb <;> decide : isLong (0xC180 ||| rbBits rb) = false), rfl,
    (by cases rb <;> decide : ((0xC180 ||| rbBits rb : Word) &&& (0x001F ||| 0x0600)) = 0)⟩

theorem jltI8 (imm8 : Byte) : Statement (.jltI8 imm8) :=
  of_short rfl rfl (bit8_clear' _ imm8 (by decide) (by decide))
    (and_mask_clear 0xC800 (0x0000 ||| 0x0600) imm8 (by decide) (by decide))

theorem jltI16 (imm16 : Word) : Statement (.jltI16 imm16) :=
  ⟨(by decide : isLong (0xC900) = true), rfl,
    (by decide : ((0xC900 : Word) &&& (0x007F ||| 0x0600)) = 0)⟩

theorem jltRR (rb : Reg) : Statement (.jltRR rb) :=
  ⟨(by cases rb <;> decide : isLong (0xC980 ||| rbBits rb) = false), rfl,
    (by cases rb <;> decide : ((0xC980 ||| rbBits rb : Word) &&& (0x001F ||| 0x0600)) = 0)⟩

theorem jhiI8 (imm8 : Byte) : Statement (.jhiI8 imm8) :=
  of_short rfl rfl (bit8_clear' _ imm8 (by decide) (by decide))
    (and_mask_clear 0xD000 (0x0000 ||| 0x0600) imm8 (by decide) (by decide))

theorem jhiI16 (imm16 : Word) : Statement (.jhiI16 imm16) :=
  ⟨(by decide : isLong (0xD100) = true), rfl,
    (by decide : ((0xD100 : Word) &&& (0x007F ||| 0x0600)) = 0)⟩

theorem jhiRR (rb : Reg) : Statement (.jhiRR rb) :=
  ⟨(by cases rb <;> decide : isLong (0xD180 ||| rbBits rb) = false), rfl,
    (by cases rb <;> decide : ((0xD180 ||| rbBits rb : Word) &&& (0x001F ||| 0x0600)) = 0)⟩

theorem jlsI8 (imm8 : Byte) : Statement (.jlsI8 imm8) :=
  of_short rfl rfl (bit8_clear' _ imm8 (by decide) (by decide))
    (and_mask_clear 0xD800 (0x0000 ||| 0x0600) imm8 (by decide) (by decide))

theorem jlsI16 (imm16 : Word) : Statement (.jlsI16 imm16) :=
  ⟨(by decide : isLong (0xD900) = true), rfl,
    (by decide : ((0xD900 : Word) &&& (0x007F ||| 0x0600)) = 0)⟩

theorem jlsRR (rb : Reg) : Statement (.jlsRR rb) :=
  ⟨(by cases rb <;> decide : isLong (0xD980 ||| rbBits rb) = false), rfl,
    (by cases rb <;> decide : ((0xD980 ||| rbBits rb : Word) &&& (0x001F ||| 0x0600)) = 0)⟩

theorem jgtI8 (imm8 : Byte) : Statement (.jgtI8 imm8) :=
  of_short rfl rfl (bit8_clear' _ imm8 (by decide) (by decide))
    (and_mask_clear 0xE000 (0x0000 ||| 0x0600) imm8 (by decide) (by decide))

theorem jgtI16 (imm16 : Word) : Statement (.jgtI16 imm16) :=
  ⟨(by decide : isLong (0xE100) = true), rfl,
    (by decide : ((0xE100 : Word) &&& (0x007F ||| 0x0600)) = 0)⟩

theorem jgtRR (rb : Reg) : Statement (.jgtRR rb) :=
  ⟨(by cases rb <;> decide : isLong (0xE180 ||| rbBits rb) = false), rfl,
    (by cases rb <;> decide : ((0xE180 ||| rbBits rb : Word) &&& (0x001F ||| 0x0600)) = 0)⟩

theorem jleI8 (imm8 : Byte) : Statement (.jleI8 imm8) :=
  of_short rfl rfl (bit8_clear' _ imm8 (by decide) (by decide))
    (and_mask_clear 0xE800 (0x0000 ||| 0x0600) imm8 (by decide) (by decide))

theorem jleI16 (imm16 : Word) : Statement (.jleI16 imm16) :=
  ⟨(by decide : isLong (0xE900) = true), rfl,
    (by decide : ((0xE900 : Word) &&& (0x007F ||| 0x0600)) = 0)⟩

theorem jleRR (rb : Reg) : Statement (.jleRR rb) :=
  ⟨(by cases rb <;> decide : isLong (0xE980 ||| rbBits rb) = false), rfl,
    (by cases rb <;> decide : ((0xE980 ||| rbBits rb : Word) &&& (0x001F ||| 0x0600)) = 0)⟩

theorem jmpI8 (imm8 : Byte) : Statement (.jmpI8 imm8) :=
  of_short rfl rfl (bit8_clear' _ imm8 (by decide) (by decide))
    (and_mask_clear 0xF000 (0x0000 ||| 0x0600) imm8 (by decide) (by decide))

theorem jmpI16 (imm16 : Word) : Statement (.jmpI16 imm16) :=
  ⟨(by decide : isLong (0xF100) = true), rfl,
    (by decide : ((0xF100 : Word) &&& (0x007F ||| 0x0600)) = 0)⟩

theorem jmpRR (rb : Reg) : Statement (.jmpRR rb) :=
  ⟨(by cases rb <;> decide : isLong (0xF180 ||| rbBits rb) = false), rfl,
    (by cases rb <;> decide : ((0xF180 ||| rbBits rb : Word) &&& (0x001F ||| 0x0600)) = 0)⟩

theorem japI8 (imm8 : Byte) : Statement (.japI8 imm8) :=
  of_short rfl rfl (bit8_clear' _ imm8 (by decide) (by decide))
    (and_mask_clear 0xF800 (0x0000 ||| 0x0600) imm8 (by decide) (by decide))

theorem japI16 (imm16 : Word) : Statement (.japI16 imm16) :=
  ⟨(by decide : isLong (0xF900) = true), rfl,
    (by decide : ((0xF900 : Word) &&& (0x007F ||| 0x0600)) = 0)⟩

theorem japRR (rb : Reg) : Statement (.japRR rb) :=
  ⟨(by cases rb <;> decide : isLong (0xF980 ||| rbBits rb) = false), rfl,
    (by cases rb <;> decide : ((0xF980 ||| rbBits rb : Word) &&& (0x001F ||| 0x0600)) = 0)⟩

end Sys2Proof.Laws.EncodesAsRow
end

