-- ==== Sys2Proof/Laws/Shift.lean ====
section
/-! SUPPORT. The shifts, defined by their arithmetic (rules R211 to R214), are the shifts and the rotation of
the bits. -/

namespace Sys2Proof.Machine

theorem sll16_eq_shiftLeft (v : Word) (n : Nat) : sll16 v n = v <<< n := by
  apply BitVec.eq_of_toNat_eq
  simp [sll16, BitVec.toNat_shiftLeft, Nat.shiftLeft_eq]

theorem srl16_eq_ushiftRight (v : Word) (n : Nat) : srl16 v n = v >>> n := by
  apply BitVec.eq_of_toNat_eq
  simp [srl16, Nat.shiftRight_eq_div_pow]
  exact lt_of_le_of_lt (Nat.div_le_self _ _) v.isLt

theorem sra16_eq_sshiftRight (v : Word) (n : Nat) : sra16 v n = v.sshiftRight n := by
  have hp : (0 : Int) < 2 ^ n := by positivity
  have lo := BitVec.le_toInt v
  have hi := BitVec.toInt_lt (x := v)
  apply BitVec.eq_of_toInt_eq
  rw [BitVec.toInt_sshiftRight, Int.shiftRight_eq_div_pow, sra16, BitVec.toInt_ofInt]
  apply Int.bmod_eq_of_le
  · have : (-32768 : Int) ≤ v.toInt / 2 ^ n := by
      rw [Int.le_ediv_iff_mul_le hp]
      simp at lo
      nlinarith [show (1 : Int) ≤ 2 ^ n from hp]
    simpa using this
  · have : v.toInt / 2 ^ n < 32768 := by
      rw [Int.ediv_lt_iff_lt_mul hp]
      simp at hi
      nlinarith [show (1 : Int) ≤ 2 ^ n from hp]
    simpa using this

theorem srr16_eq_rotateRight (v : Word) (n : Nat) : srr16 v n = v.rotateRight n := by
  rw [← BitVec.rotateRight_mod_eq_rotateRight]
  unfold srr16
  have hlt : n % 16 < 16 := Nat.mod_lt _ (by decide)
  generalize n % 16 = m at *
  split
  · rename_i h
    rw [h]
    exact BitVec.eq_of_toNat_eq (by simp [BitVec.rotateRight, BitVec.rotateRightAux])
  · apply BitVec.eq_of_getLsbD_eq
    intro i hi
    have sum : v.toNat / 2 ^ m + v.toNat * 2 ^ (16 - m) = v.toNat <<< (16 - m) + v.toNat >>> m := by
      rw [Nat.shiftRight_eq_div_pow, Nat.shiftLeft_eq, Nat.add_comm]
    have disjoint : v.toNat >>> m < 2 ^ (16 - m) := by
      rw [Nat.shiftRight_eq_div_pow, Nat.div_lt_iff_lt_mul (by positivity), ← pow_add, show 16 - m + m = 16 by omega]
      exact v.isLt
    rw [BitVec.getLsbD_rotateRight, BitVec.getLsbD_ofNat, sum, Nat.shiftLeft_add_eq_or_of_lt disjoint]
    simp only [hi, decide_true, Bool.true_and, Nat.mod_eq_of_lt hlt]
    rw [Nat.testBit_or, Nat.testBit_shiftLeft, Nat.testBit_shiftRight]
    by_cases h : i < 16 - m
    · simp [h, show ¬ (16 - m ≤ i) by omega]
      rfl
    · simp only [h, show (16 - m ≤ i) by omega]
      have high : v.toNat.testBit (m + i) = false :=
        Nat.testBit_lt_two_pow (lt_of_lt_of_le v.isLt (Nat.pow_le_pow_right (by decide) (by omega)))
      simp [high]
      rfl

end Sys2Proof.Machine
end

