-- ==== Sys2Proof/Laws/Step.lean ====
section
/-! SUPPORT. The fetch, the step and the run: everything each can do. -/

namespace Sys2Proof.Machine

/-! ### Fetch and step -/

/-- Everything a successful fetch says: `pc` is even, its word and its immediate word are read, and they
decode to the instruction, which executes at `pc + 2`. -/
theorem fetch_instr_iff (s t : State) (i : Instr) :
    fetch s = .instr i t ↔
      s.pc.getLsbD 0 = false ∧
        ∃ ir imm, s.readWord s.pc = .ok ir ∧ fetchImmediate s ir = .ok imm ∧ decodeWords ir imm = .ok i ∧
          t = s.advance := by
  unfold fetch
  cases hpc : s.pc.getLsbD 0 with
  | true => simp
  | false =>
    cases hw : s.readWord s.pc with
    | error e => simp
    | ok ir =>
      cases hi : fetchImmediate s ir with
      | error e => simp [hi]
      | ok imm =>
        cases hd : decodeWords ir imm with
        | error e => simp [hi, hd]
        | ok j => simp [hi, hd, eq_comm]

/-- A step answers a next state exactly when the fetch answers an instruction and `exec` goes on. -/
theorem step_next_iff (s t : State) :
    step s = .next t ↔ ∃ i, fetch s = .instr i s.advance ∧ exec i s.advance = .next t := by
  unfold step
  cases h : fetch s with
  | fault f => simp
  | instr i u =>
    obtain ⟨-, ir, imm, -, -, -, rfl⟩ := (fetch_instr_iff s u i).1 h
    simp

/-! ### When the fetch stops -/

theorem readWord_error_low (s : State) (addr : Word) (h : s.params.memSize ≤ addr.toNat) :
    s.readWord addr = .error addr := by
  rw [readWord_error_iff, checkWord_error_iff]
  simp [State.populated, h]

theorem readWord_error_high (s : State) (addr : Word) (h0 : addr.toNat < s.params.memSize)
    (h1 : s.params.memSize ≤ (addr + 1#16).toNat) : s.readWord addr = .error (addr + 1#16) := by
  rw [readWord_error_iff, checkWord_error_iff]
  exact .inr ⟨decide_eq_true h0, decide_eq_false (by omega), rfl⟩

theorem fetch_misaligned (s : State) (h : s.pc.getLsbD 0 = true) : fetch s = .fault (.misalignedFetch s.pc) := by
  rw [fetch, if_pos h]

theorem fetch_word_error (s : State) (bad : Word) (h : s.pc.getLsbD 0 = false) (hw : s.readWord s.pc = .error bad) :
    fetch s = .fault (.unpopulatedAccess s.pc bad) := by
  rw [fetch, if_neg (by rw [h]; decide), hw]

theorem fetch_immediate_error (s : State) (ir bad : Word) (h : s.pc.getLsbD 0 = false)
    (hw : s.readWord s.pc = .ok ir) (hi : fetchImmediate s ir = .error bad) :
    fetch s = .fault (.unpopulatedAccess s.pc bad) := by
  rw [fetch, if_neg (by rw [h]; decide), hw]
  simp only [hi]

theorem fetch_unassigned (s : State) (ir : Word) (h : s.pc.getLsbD 0 = false) (hw : s.readWord s.pc = .ok ir)
    (hop : opField ir = 0b01011) : fetch s = .fault (.illegalOpcode s.pc) := by
  rw [fetch, if_neg (by rw [h]; decide), hw]
  simp only [fetchImmediate, isLong_of_unassigned ir hop, decodeWords_of_unassigned ir _ hop]
  rfl

theorem step_of_fetch_fault (s : State) (f : Fault) (h : fetch s = .fault f) : step s = .fault f := by
  rw [step, h]

theorem step_of_fetch_instr (s t : State) (i : Instr) (h : fetch s = .instr i t) : step s = exec i t := by
  rw [step, h]

/-! ### Runs -/

theorem core_run_zero (s : State) : core.run 0 s = .next s := rfl

theorem core_run_succ_of_next (s t : State) (k : Nat) (h : step s = .next t) : core.run (k + 1) s = core.run k t := by
  have h' : core.step s = .next t := h
  refine (Host.Core.run.eq_2 core s k).trans ?_
  rw [h']

end Sys2Proof.Machine
end

