-- ==== Sys2Proof/Tests/Slice0.lean ====
section
/-! SUPPORT. The model's own tests. The words of the decode tests are written out from the rows of the opcode
table; the step tests are vectors of the spec's 95_test_vectors.md, whose ids they name; the witnesses show that
the hypotheses of the statements can be met. -/

namespace Sys2Proof.Tests

open Sys2Proof.Machine

/-! ### Helpers -/

/-- The spec's default start state: A = 0x0A0A, X = 0x0B0B, Y = 0x0C0C, SP = 0x0D00, all flags 1, `pc` 0x0100. -/
def base : State where
  a := 0x0A0A
  x := 0x0B0B
  y := 0x0C0C
  sp := 0x0D00
  pc := 0x0100
  flags := ⟨true, true, true, true⟩
  mem := []
  params := Params.standard
  draws := 0

/-- A start state with words placed from `pc` on. -/
def placed (s : State) (ws : List Word) : State := s.putBytes s.pc (ws.flatMap (wordBytes s.params.byteOrder))

/-- A, `pc` and the flags N, Z, C, V after one step. -/
def after (s : State) (ws : List Word) : Option (Word × Word × List Bool) :=
  match step (placed s ws) with
  | .next t => some (t.a, t.pc, [t.flags.n, t.flags.z, t.flags.c, t.flags.v])
  | _ => none

/-- `pc` and the two bytes from `addr` on after one step. -/
def stored (s : State) (ws : List Word) (addr : Word) : Option (Word × Byte × Byte) :=
  match step (placed s ws) with
  | .next t => some (t.pc, t.byteAt addr, t.byteAt (addr + 1))
  | _ => none

/-- The fault of one step. -/
def faultOf (s : State) : Option Fault :=
  match step s with
  | .fault f => some f
  | _ => none

/-- What a decoder answers, as an option. -/
def decoded (ir imm : Word) : Option Instr := (decodeWords ir imm).toOption

def big : Params := { Params.standard with byteOrder := .big }

def small : Params := { Params.standard with memSize := 0x1000 }

/-! ### Well-formedness: each check refuses an ill-formed term -/

theorem test_standard_params_wellFormed : Params.standard.wellFormed = true := by decide
theorem test_memSize_zero_refused : ({ Params.standard with memSize := 0 } : Params).memSizeInRange = false := by decide
theorem test_memSize_above_refused : ({ Params.standard with memSize := 65538 } : Params).memSizeInRange = false := by decide
theorem test_memSize_odd_refused : ({ Params.standard with memSize := 0x1001 } : Params).memSizeEven = false := by decide
theorem test_resetPc_odd_refused : ({ Params.standard with resetPc := 1 } : Params).resetPcEven = false := by decide
theorem test_resetPc_unpopulated_refused : ({ small with resetPc := 0x1000 } : Params).resetPcPopulated = false := by decide
theorem test_ill_formed_params_refused : ({ small with resetPc := 0x1000 } : Params).wellFormed = false := by decide
theorem test_image_accepted : imageWellFormed small 0x0FFE [0x50, 0x00] = true := by decide
theorem test_image_odd_origin_refused : imageWellFormed small 0x0001 [0x50] = false := by decide
theorem test_image_too_long_refused : imageWellFormed small 0x0FFE [1, 2, 3] = false := by decide
theorem test_sgx_two_registers_not_assembled : (Instr.sgxRR .x .y).assemblerForm = false := by decide
theorem test_sgx_one_register_assembled : (Instr.sgxRR .y .y).assemblerForm = true := by decide
theorem test_memory_zero_entry_refused : Memory.wf [(4, 0x00)] = false := by decide
theorem test_memory_order_refused : Memory.wf [(5, 0x01), (4, 0x02)] = false := by decide
theorem test_memory_address_refused : Memory.wf [(65536, 0x01)] = false := by decide

/-! ### Decoding: one word per row of the opcode table, its don't-care bits all 1 -/

theorem test_decode_add :
    decoded 0x027F 0x8001 = some (.addI8 .x 0x7F) ∧
    decoded 0x017F 0xBEEF = some (.addI16 .a 0xBEEF) ∧
    decoded 0x059F 0xBEEF = some (.addRR .y .a) := by decide
theorem test_decode_sub :
    decoded 0x08A5 0x1234 = some (.subI8 .a 0xA5) ∧
    decoded 0x0F7F 0x7FFE = some (.subI16 .sp 0x7FFE) ∧
    decoded 0x0B9F 0xBEEF = some (.subRR .x .a) := by decide
theorem test_decode_cmp :
    decoded 0x1001 0x7FFE = some (.cmpI8 .a 0x01) ∧
    decoded 0x137F 0xBEEF = some (.cmpI16 .x 0xBEEF) ∧
    decoded 0x179F 0xBEEF = some (.cmpRR .sp .a) := by decide
theorem test_decode_sgx :
    decoded 0x1EA5 0x1234 = some (.sgxI8 0xA5) ∧
    decoded 0x1F7F 0x1234 = some (.sgxI16 0x1234) ∧
    decoded 0x1FBF 0x8001 = some (.sgxRR .sp .x) := by decide
theorem test_decode_and :
    decoded 0x2401 0xBEEF = some (.andI8 .y 0x01) ∧
    decoded 0x217F 0x1234 = some (.andI16 .a 0x1234) ∧
    decoded 0x259F 0x1234 = some (.andRR .y .a) := by decide
theorem test_decode_or :
    decoded 0x2801 0xBEEF = some (.orI8 .a 0x01) ∧
    decoded 0x2F7F 0x1234 = some (.orI16 .sp 0x1234) ∧
    decoded 0x2DFF 0x7FFE = some (.orRR .y .sp) := by decide
theorem test_decode_xor :
    decoded 0x3480 0x7FFE = some (.xorI8 .y 0x80) ∧
    decoded 0x337F 0x1234 = some (.xorI16 .x 0x1234) ∧
    decoded 0x31DF 0x1234 = some (.xorRR .a .y) := by decide
theorem test_decode_inv :
    decoded 0x3E80 0x7FFE = some (.invI8 0x80) ∧
    decoded 0x3F7F 0x7FFE = some (.invI16 0x7FFE) ∧
    decoded 0x3F9F 0x8001 = some (.invRR .a) := by decide
theorem test_decode_sll :
    decoded 0x466A 0xBEEF = some (.sllSHI .sp 10) ∧
    decoded 0x436F 0x8001 = some (.sllSHR .x .sp) := by decide
theorem test_decode_srl :
    decoded 0x4075 0x7FFE = some (.srlSHI .a 5) ∧
    decoded 0x455F 0x8001 = some (.srlSHR .y .y) := by decide
theorem test_decode_sra :
    decoded 0x46E5 0x7FFE = some (.sraSHI .sp 5) ∧
    decoded 0x45EF 0xBEEF = some (.sraSHR .y .sp) := by decide
theorem test_decode_srr :
    decoded 0x40FF 0xBEEF = some (.srrSHI .a 15) ∧
    decoded 0x45FF 0x7FFE = some (.srrSHR .y .sp) := by decide
theorem test_decode_swp :
    decoded 0x49FF 0x8001 = some (.swp .a) := by decide
theorem test_decode_hcf :
    decoded 0x57FF 0x7FFE = some .hcf := by decide
theorem test_decode_lda :
    decoded 0x6201 0x8001 = some (.ldaI8 .x 0x01) ∧
    decoded 0x677F 0xBEEF = some (.ldaI16 .sp 0xBEEF) ∧
    decoded 0x63DF 0xBEEF = some (.ldaRR .x .y) := by decide
theorem test_decode_ldab :
    decoded 0x6A7F 0x1234 = some (.ldabI8 .x 0x7F) ∧
    decoded 0x6F7F 0x7FFE = some (.ldabI16 .sp 0x7FFE) ∧
    decoded 0x6BFF 0xBEEF = some (.ldabRR .x .sp) := by decide
theorem test_decode_sta :
    decoded 0x745A 0x7FFE = some (.staI8 .y 0x5A) ∧
    decoded 0x757F 0x7FFE = some (.staI16 .y 0x7FFE) ∧
    decoded 0x75FF 0x7FFE = some (.staRR .y .sp) := by decide
theorem test_decode_stab :
    decoded 0x7AA5 0x1234 = some (.stabI8 .x 0xA5) ∧
    decoded 0x7B7F 0x1234 = some (.stabI16 .x 0x1234) ∧
    decoded 0x7B9F 0x1234 = some (.stabRR .x .a) := by decide
theorem test_decode_jnc :
    decoded 0x8601 0x7FFE = some (.jncI8 0x01) ∧
    decoded 0x877F 0x1234 = some (.jncI16 0x1234) ∧
    decoded 0x87DF 0x8001 = some (.jncRR .y) := by decide
theorem test_decode_jns :
    decoded 0x8E5A 0xBEEF = some (.jnsI8 0x5A) ∧
    decoded 0x8F7F 0x7FFE = some (.jnsI16 0x7FFE) ∧
    decoded 0x8FDF 0x8001 = some (.jnsRR .y) := by decide
theorem test_decode_jne :
    decoded 0x9601 0x1234 = some (.jneI8 0x01) ∧
    decoded 0x977F 0xBEEF = some (.jneI16 0xBEEF) ∧
    decoded 0x97FF 0x7FFE = some (.jneRR .sp) := by decide
theorem test_decode_jeq :
    decoded 0x9E7F 0x7FFE = some (.jeqI8 0x7F) ∧
    decoded 0x9F7F 0x7FFE = some (.jeqI16 0x7FFE) ∧
    decoded 0x9FFF 0xBEEF = some (.jeqRR .sp) := by decide
theorem test_decode_jlo :
    decoded 0xA6A5 0x7FFE = some (.jloI8 0xA5) ∧
    decoded 0xA77F 0x1234 = some (.jloI16 0x1234) ∧
    decoded 0xA7BF 0xBEEF = some (.jloRR .x) := by decide
theorem test_decode_jhs :
    decoded 0xAE5A 0x7FFE = some (.jhsI8 0x5A) ∧
    decoded 0xAF7F 0xBEEF = some (.jhsI16 0xBEEF) ∧
    decoded 0xAF9F 0x8001 = some (.jhsRR .a) := by decide
theorem test_decode_jvc :
    decoded 0xB6A5 0xBEEF = some (.jvcI8 0xA5) ∧
    decoded 0xB77F 0x1234 = some (.jvcI16 0x1234) ∧
    decoded 0xB7DF 0xBEEF = some (.jvcRR .y) := by decide
theorem test_decode_jvs :
    decoded 0xBEA5 0xBEEF = some (.jvsI8 0xA5) ∧
    decoded 0xBF7F 0x1234 = some (.jvsI16 0x1234) ∧
    decoded 0xBFBF 0x7FFE = some (.jvsRR .x) := by decide
theorem test_decode_jge :
    decoded 0xC680 0x8001 = some (.jgeI8 0x80) ∧
    decoded 0xC77F 0x8001 = some (.jgeI16 0x8001) ∧
    decoded 0xC79F 0x7FFE = some (.jgeRR .a) := by decide
theorem test_decode_jlt :
    decoded 0xCE7F 0xBEEF = some (.jltI8 0x7F) ∧
    decoded 0xCF7F 0x7FFE = some (.jltI16 0x7FFE) ∧
    decoded 0xCFFF 0x7FFE = some (.jltRR .sp) := by decide
theorem test_decode_jhi :
    decoded 0xD6A5 0x8001 = some (.jhiI8 0xA5) ∧
    decoded 0xD77F 0x1234 = some (.jhiI16 0x1234) ∧
    decoded 0xD7DF 0xBEEF = some (.jhiRR .y) := by decide
theorem test_decode_jls :
    decoded 0xDE7F 0x8001 = some (.jlsI8 0x7F) ∧
    decoded 0xDF7F 0x1234 = some (.jlsI16 0x1234) ∧
    decoded 0xDFBF 0xBEEF = some (.jlsRR .x) := by decide
theorem test_decode_jgt :
    decoded 0xE65A 0x8001 = some (.jgtI8 0x5A) ∧
    decoded 0xE77F 0xBEEF = some (.jgtI16 0xBEEF) ∧
    decoded 0xE79F 0x8001 = some (.jgtRR .a) := by decide
theorem test_decode_jle :
    decoded 0xEE01 0x8001 = some (.jleI8 0x01) ∧
    decoded 0xEF7F 0x8001 = some (.jleI16 0x8001) ∧
    decoded 0xEFDF 0x1234 = some (.jleRR .y) := by decide
theorem test_decode_jmp :
    decoded 0xF601 0x1234 = some (.jmpI8 0x01) ∧
    decoded 0xF77F 0x8001 = some (.jmpI16 0x8001) ∧
    decoded 0xF7BF 0x1234 = some (.jmpRR .x) := by decide
theorem test_decode_jap :
    decoded 0xFE7F 0x1234 = some (.japI8 0x7F) ∧
    decoded 0xFF7F 0x1234 = some (.japI16 0x1234) ∧
    decoded 0xFFFF 0x1234 = some (.japRR .sp) := by decide

/-! ### Words no instruction has, the table's words, and the lengths at their boundaries -/

theorem test_unassigned_opcode_refused :
    decoded 0x5800 0 = none ∧ decoded 0x5FFF 0xFFFF = none ∧ decoded 0x57FF 0 = some .hcf ∧
    decoded 0x6000 0 = some (.ldaI8 .a 0) := by decide
theorem test_decode_truncated :
    decode .little [0x00] = .error .truncated ∧ decode .little [0x00, 0x01, 0x34] = .error .truncated := ⟨rfl, rfl⟩
theorem test_decode_rest_of_bytes :
    decode .little [0x00, 0x03, 0x34, 0x12, 0x77] = .ok (.addI16 .x 0x1234, [0x77]) ∧
    decode .big [0x03, 0x00, 0x12, 0x34, 0x77] = .ok (.addI16 .x 0x1234, [0x77]) := ⟨rfl, rfl⟩
theorem test_encode_bytes :
    encode .little (.addI16 .x 0x1234) = [0x00, 0x03, 0x34, 0x12] ∧ encode .big (.jmpI8 0x0E) = [0xF0, 0x0E] := by decide
theorem test_decodeTableWord :
    decodeTableWord 16 0x05E0 = some (.addRR .y .sp) ∧ decodeTableWord 32 0x80000100 = some (.addI16 .a 0x8000) ∧
    decodeTableWord 16 0x0100 = some (.addI16 .a 0) ∧ decodeTableWord 16 0x5800 = none := by decide
theorem test_withFetchWord_runs :
    (match step (State.reset.withFetchWord 16 0x00FF) with | .next t => some (t.a, t.pc) | _ => none) =
      some (0x00FF, 0x0002) ∧
    (match step (State.reset.withFetchWord 32 0x1234F100) with | .next t => some (t.a, t.pc) | _ => none) =
      some (0x0000, 0x1234) := by decide

/-! ### ADD, SUB, CMP -/

theorem test_A1_add_wraps : after { base with a := 0xFFFF } [0x0001] = some (0x0000, 0x0102, [false, true, true, false]) := by decide
theorem test_A4_add_carry_and_overflow :
    after { base with a := 0x8000 } [0x0100, 0x8000] = some (0x0000, 0x0104, [false, true, true, true]) := by decide
theorem test_A5_add_registers :
    after { base with y := 0x7FFF, sp := 0x0001 } [0x05E0] = some (0x8000, 0x0102, [true, false, false, true]) := by decide
theorem test_A9_sub_borrows :
    after { base with a := 0x0000 } [0x0801] = some (0xFFFF, 0x0102, [true, false, false, false]) := by decide
theorem test_A13_sub_imm16 :
    after { base with a := 0x1234 } [0x0900, 0x1234] = some (0x0000, 0x0104, [false, true, true, false]) := by decide
theorem test_A16_sub_overflows :
    after { base with x := 0x7FFF, y := 0xFFFF } [0x0BC0] = some (0x8000, 0x0102, [true, false, false, true]) := by decide
theorem test_A18_cmp_writes_flags_only :
    after { base with a := 0x0001 } [0x1002] = some (0x0001, 0x0102, [true, false, false, false]) := by decide
theorem test_A19_cmp_registers :
    after { base with x := 0x8000, y := 0x0001 } [0x13C0] = some (0x0A0A, 0x0102, [false, false, true, true]) := by decide
theorem test_A20_cmp_imm16 :
    after { base with a := 0x0000 } [0x1100, 0xFFFF] = some (0x0000, 0x0104, [false, false, false, false]) := by decide

/-! ### SGX, AND, OR, XOR, INV (C and V are the default of `CV_NONARITH`) -/

theorem test_L1_sgx_imm8 : after base [0x1880] = some (0xFF80, 0x0102, [true, false, false, false]) := by decide
theorem test_L4_sgx_imm16 : after base [0x1900, 0x1280] = some (0xFF80, 0x0104, [true, false, false, false]) := by decide
theorem test_L7_sgx_field_6_5 :
    after { base with x := 0x0001, y := 0x0080 } [0x1BC0] = some (0xFF80, 0x0102, [true, false, false, false]) := by decide
theorem test_L7_sgx_field_10_9 :
    after { base with x := 0x0001, y := 0x0080, params := { Params.standard with sgxField := .bits10_9 } } [0x1BC0] =
      some (0x0001, 0x0102, [false, false, false, false]) := by decide
theorem test_L8_and_imm8 : after { base with a := 0x12F5 } [0x200F] = some (0x0005, 0x0102, [false, false, false, false]) := by decide
theorem test_L10_and_imm16 :
    after { base with a := 0xFFFF } [0x2100, 0x8000] = some (0x8000, 0x0104, [true, false, false, false]) := by decide
theorem test_L9_and_registers :
    after { base with x := 0xFF00, y := 0x0FF0 } [0x23C0] = some (0x0F00, 0x0102, [false, false, false, false]) := by decide
theorem test_L12_or_imm8 : after { base with a := 0x8000 } [0x2801] = some (0x8001, 0x0102, [true, false, false, false]) := by decide
theorem test_L13_or_registers :
    after { base with x := 0x0000, y := 0x0000 } [0x2BC0] = some (0x0000, 0x0102, [false, true, false, false]) := by decide
theorem test_L15_xor_registers :
    after { base with a := 0x5A5A } [0x3180] = some (0x0000, 0x0102, [false, true, false, false]) := by decide
theorem test_L17_xor_imm16 :
    after { base with a := 0x1234 } [0x3100, 0xFFFF] = some (0xEDCB, 0x0104, [true, false, false, false]) := by decide
theorem test_L19_inv_imm8 : after base [0x38FF] = some (0xFF00, 0x0102, [true, false, false, false]) := by decide
theorem test_L21_inv_imm16 : after base [0x3900, 0xEDCB] = some (0x1234, 0x0104, [false, false, false, false]) := by decide
theorem test_L24_inv_register_dont_care :
    after { base with x := 0x00FF } [0x3FA0] = some (0xFF00, 0x0102, [true, false, false, false]) := by decide

/-! ### Shifts and SWP -/

theorem test_S3_sll_15 : after { base with a := 0x0001 } [0x400F] = some (0x8000, 0x0102, [true, false, false, false]) := by decide
theorem test_S16_sll_low4 :
    after { base with a := 0x0001, y := 0x0013 } [0x4140] = some (0x0008, 0x0102, [false, false, false, false]) := by decide
theorem test_S16_sll_full :
    after { base with a := 0x0001, y := 0x0013, params := { Params.standard with shiftAmount := .full } } [0x4140] =
      some (0x0000, 0x0102, [false, true, false, false]) := by decide
theorem test_S5_srl : after { base with a := 0x8234 } [0x4014] = some (0x0823, 0x0102, [false, false, false, false]) := by decide
theorem test_S17_srl_register :
    after { base with x := 0xFF00, y := 0x0008 } [0x4350] = some (0x00FF, 0x0102, [false, false, false, false]) := by decide
theorem test_S7_sra : after { base with a := 0x8234 } [0x4084] = some (0xF823, 0x0102, [true, false, false, false]) := by decide
theorem test_S18_sra_register :
    after { base with x := 0xFF00, y := 0x0008 } [0x43C0] = some (0xFFFF, 0x0102, [true, false, false, false]) := by decide
theorem test_S11_srr : after { base with a := 0x1234 } [0x4094] = some (0x4123, 0x0102, [false, false, false, false]) := by decide
theorem test_S19_srr_register :
    after { base with x := 0xFF01, y := 0x0008 } [0x43D0] = some (0x01FF, 0x0102, [false, false, false, false]) := by decide
theorem test_W2_swp_a : after { base with a := 0x0000 } [0x4800] = some (0x0000, 0x0102, [false, true, false, false]) := by decide
theorem test_W3_swp_sp :
    (match step (placed { base with a := 0x0300, sp := 0x1234 } [0x4E00]) with
      | .next t => some (t.a, t.sp) | _ => none) = some (0x1234, 0x0300) := by decide

/-! ### Loads and stores -/

theorem test_M1_lda_little :
    after { base with x := 0x0200, mem := [(0x202, 0x34), (0x203, 0x12)] } [0x6202] =
      some (0x1234, 0x0102, [false, false, false, false]) := by decide
theorem test_M1_lda_big :
    after { base with x := 0x0200, mem := [(0x202, 0x34), (0x203, 0x12)], params := big } [0x6202] =
      some (0x3412, 0x0102, [false, false, false, false]) := by decide
theorem test_M3_lda_imm16_wraps :
    after { base with x := 0xFF00 } [0x6300, 0x0300] = some (0x0000, 0x0104, [false, true, false, false]) := by decide
theorem test_M4_lda_registers :
    after { base with x := 0x0100, y := 0x0100, mem := [(0x200, 0x80)] } [0x63C0] =
      some (0x0080, 0x0102, [false, false, false, false]) := by decide
theorem test_M6_ldab_zero_extends :
    after { base with x := 0x0200, mem := [(0x201, 0x80)] } [0x6A01] =
      some (0x0080, 0x0102, [false, false, false, false]) := by decide
theorem test_M8_ldab_imm16 :
    after { base with sp := 0x0234, mem := [(0x1234, 0x7F)] } [0x6F00, 0x1000] =
      some (0x007F, 0x0104, [false, false, false, false]) := by decide
theorem test_M10_sta_little :
    stored { base with a := 0x1234, sp := 0x0200 } [0x7605] 0x0205 = some (0x0102, 0x34, 0x12) := by decide
theorem test_M11_sta_imm16_big :
    stored { base with a := 0xBEEF, x := 0x8002, params := big } [0x7300, 0x8000] 0x0002 =
      some (0x0104, 0xBE, 0xEF) := by decide
theorem test_M12_sta_registers : stored { base with a := 0x0123 } [0x7180] 0x0246 = some (0x0102, 0x23, 0x01) := by decide
theorem test_M13_sta_wraps : stored { base with a := 0xFFFF } [0x7000] 0xFFFF = some (0x0102, 0xFF, 0xFF) := by decide
theorem test_M14_stab : stored { base with a := 0x12CD, y := 0x0300 } [0x7C01] 0x0301 = some (0x0102, 0xCD, 0x00) := by decide
theorem test_M15_stab_registers :
    stored { base with a := 0x00EE, x := 0x0001, sp := 0xFFFF } [0x7BE0] 0x0000 = some (0x0102, 0xEE, 0x00) := by decide

/-! ### Control -/

theorem test_W6_hcf : after base [0x5000] = some (0x0A0A, 0x0100, [true, true, true, true]) := by decide
theorem test_J3_jmp_back : after base [0xF080] = some (0x0A0A, 0x0082, [true, true, true, true]) := by decide
theorem test_J7_jmp_register :
    after { base with x := 0x0400 } [0xF1A0] = some (0x0A0A, 0x0400, [true, true, true, true]) := by decide
theorem test_J8_jeq_taken :
    after { base with flags := ⟨false, true, false, false⟩ } [0x9804] =
      some (0x0A0A, 0x0106, [false, true, false, false]) := by decide
theorem test_J10_jeq_absolute_untaken :
    after { base with flags := ⟨false, false, false, false⟩ } [0x9900, 0x2000] =
      some (0x0A0A, 0x0104, [false, false, false, false]) := by decide
theorem test_J12_jne_register :
    after { base with y := 0x0600, flags := ⟨false, false, false, false⟩ } [0x91C0] =
      some (0x0A0A, 0x0600, [false, false, false, false]) := by decide
theorem test_J15_jmp_wraps :
    after { base with pc := 0xFFFE } [0xF002] = some (0x0A0A, 0x0002, [true, true, true, true]) := by decide
theorem test_J16_jap_little : stored { base with sp := 0x0300 } [0xF810] 0x0300 = some (0x0112, 0x02, 0x01) := by decide
theorem test_J17_jap_absolute_big :
    stored { base with sp := 0x0300, params := big } [0xF900, 0x4000] 0x0300 = some (0x4000, 0x01, 0x04) := by decide
theorem test_J20_jap_target_read_first : stored { base with sp := 0x0300 } [0xF9E0] 0x0300 = some (0x0300, 0x02, 0x01) := by decide

/-- The suffixes taken after `cmp A,X`, in jump-code order: table 3.7. -/
def takenAfterCmp (a x : Word) : Option (List Bool) :=
  match step (placed { base with a, x } [0x11A0]) with
  | .next t => some ([Cond.nc, .ns, .ne, .eq, .lo, .hs, .vc, .vs, .ge, .lt, .hi, .ls, .gt, .le, .mp].map (condHolds t.flags))
  | _ => none

theorem test_conditions_equal : takenAfterCmp 0x0005 0x0005 =
    some [true, false, false, true, false, true, true, false, true, false, false, true, false, true, true] := by decide
theorem test_conditions_signed_below : takenAfterCmp 0x8000 0x0001 =
    some [true, false, true, false, false, true, false, true, false, true, true, false, false, true, true] := by decide
theorem test_conditions_unsigned_below : takenAfterCmp 0x7FFF 0xFFFF =
    some [false, true, true, false, true, false, false, true, true, false, false, true, true, false, true] := by decide

/-! ### Faults -/

theorem test_W8_illegal_opcode : faultOf (placed base [0x5800]) = some (.illegalOpcode 0x0100) := by decide
theorem test_misaligned_fetch : faultOf { base with pc := 0x0181 } = some (.misalignedFetch 0x0181) := by decide
theorem test_unpopulated_fetch :
    faultOf { base with pc := 0x1000, params := small } = some (.unpopulatedAccess 0x1000 0x1000) := by decide
theorem test_unpopulated_store_names_high_byte :
    faultOf (placed { base with x := 0x0FFF, params := small } [0x7200]) = some (.unpopulatedAccess 0x0100 0x1000) := by
  decide

/-! ### The assembler -/

theorem test_assembler_choices :
    asmImmediate 255 = .imm8 255 ∧ asmImmediate 256 = .imm16 256 ∧ asmTarget 0x0100 0x0181 = .relative 127 ∧
    asmTarget 0x0100 0x0182 = .absolute 0x0182 ∧ asmTarget 0x0100 0x0082 = .relative 0x80 ∧ asmReg none = .a := by decide
theorem test_macro_words :
    assembledWords (expandMacro .dec) = [0x0801] ∧ assembledWords (expandMacro (.jcs (.register .x))) = [0xA9A0] ∧
    assembledWords (expandMacro (.jzc (.relative 0xF2))) = [0x90F2] ∧
    assembledWords (expandMacro (.jzs (.absolute 0x2000))) = [0x9900, 0x2000] ∧
    assembledWords (expandMacro (.jcc (.relative 4))) = [0xA004] ∧
    assembledWords (expandMacro (.ldi 0xFFBF)) = [0x3900, 0x0040] ∧
    assembledWords (expandMacro (.ldib 5)) = [0x38FA] ∧ assembledWords (expandMacro .ret) = [0x6602, 0xF180] := by decide
theorem test_source_text :
    sourceText 0x0100 (.addI8 .x 5) = "add X,#5" ∧ sourceText 0x0100 (.staI8 .sp 5) = "sta [SP,#5]" ∧
    sourceText 0x0100 (.jmpI8 0x0E) = "jmp #272" ∧ sourceText 0x0100 .hcf = "hcf" := by decide

/-! ### Witnesses: the hypotheses of the statements can be met -/

/-- Words of a major opcode that select its three forms. -/
def threeForms (major : BitVec 5) (w8 w16 wr : Word) : Bool :=
  decide (w8.extractLsb' 11 5 = major ∧ w16.extractLsb' 11 5 = major ∧ wr.extractLsb' 11 5 = major) &&
    !w8.getLsbD 8 && (w16.getLsbD 8 && !w16.getLsbD 7) && (wr.getLsbD 8 && wr.getLsbD 7)

/-- The bytes of the four addresses from `pc` on. -/
def fetchBytes (s : State) : List Byte := [s.byteAt s.pc, s.byteAt (s.pc + 1), s.byteAt (s.pc + 2), s.byteAt (s.pc + 3)]

/-- For EncodeOfDecode, DontCareBitsIgnored and LengthFromFirstWord, at the opcodes next to those without an `I16` form. -/
theorem witness_decoded_words :
    decodeWords 0x0100 0x8000 = .ok (.addI16 .a 0x8000) ∧ decodeWords 0x57FF 0 = .ok .hcf ∧
    decodeWords 0x8600 0 = .ok (.jncI8 0) ∧ decodeWords 0x3900 1 = .ok (.invI16 1) ∧
    decodeWords 0x6100 1 = .ok (.ldaI16 .a 1) ∧ decodeWords 0x4100 0 = .ok (.sllSHR .a .a) := ⟨rfl, rfl, rfl, rfl, rfl, rfl⟩
theorem witness_DontCareBitsIgnored : (Instr.hcf).dontCare = 0x07FF ∧ (Instr.jncI16 5).dontCare = 0x067F := by decide
theorem witness_OneMajorOpcodeUnassigned :
    (0x57FF : Word).extractLsb' 11 5 ≠ 0b01011 ∧ (0x5800 : Word).extractLsb' 11 5 = 0b01011 ∧
    (0x5FFF : Word).extractLsb' 11 5 = 0b01011 ∧ (0x6000 : Word).extractLsb' 11 5 ≠ 0b01011 := by decide

/-- A 4-byte instruction across the end of memory. -/
def wrapping : State := placed { base with pc := 0xFFFE } [0x0100, 0x8000]
theorem witness_StepRunsDecodedInstruction :
    wrapping.pc.getLsbD 0 = false ∧ WordPopulated wrapping wrapping.pc ∧ WordPopulated wrapping (wrapping.pc + 2) ∧
    decode wrapping.params.byteOrder (fetchBytes wrapping) = .ok (.addI16 .a 0x8000, []) :=
  ⟨by decide, by unfold WordPopulated; decide, by unfold WordPopulated; decide, rfl⟩
/-- A 2-byte instruction in the last populated word. -/
def lastWord : State := placed { base with pc := 0x0FFE, params := small } [0x0205]
theorem witness_StepRunsDecodedInstruction_short :
    lastWord.pc.getLsbD 0 = false ∧ WordPopulated lastWord lastWord.pc ∧
    decode lastWord.params.byteOrder (fetchBytes lastWord) = .ok (.addI8 .x 5, [0, 0]) ∧ (Instr.addI8 .x 5).size = 2 :=
  ⟨by decide, by unfold WordPopulated; decide, rfl, rfl⟩

theorem witness_FetchFaultsInOrder_word :
    (0x0001 : Word).getLsbD 0 = true ∧ (0x1000 : Word).getLsbD 0 = false ∧
    ({ base with pc := 0x1000, params := small } : State).params.memSize ≤ (0x1000 : Word).toNat ∧
    (0x1000 : Word).toNat < ({ small with memSize := 0x1001 } : Params).memSize ∧
    ({ small with memSize := 0x1001 } : Params).memSize ≤ ((0x1000 : Word) + 1).toNat := by decide
/-- A 4-byte instruction whose immediate word is unpopulated. -/
def cutOff : State := placed { base with pc := 0x0FFE, params := small } [0x0100]
theorem witness_FetchFaultsInOrder_immediate :
    cutOff.pc.getLsbD 0 = false ∧ WordPopulated cutOff cutOff.pc ∧
    isLong (joinBytes cutOff.params.byteOrder (cutOff.byteAt cutOff.pc) (cutOff.byteAt (cutOff.pc + 1))) = true ∧
    cutOff.params.memSize ≤ (cutOff.pc + 2).toNat := ⟨by decide, by unfold WordPopulated; decide, by decide, by decide⟩
/-- As `cutOff`, with one byte of the immediate word populated. -/
def halfCutOff : State := { cutOff with params := { small with memSize := 0x1001 } }
theorem witness_FetchFaultsInOrder_half_immediate :
    WordPopulated halfCutOff halfCutOff.pc ∧
    isLong (joinBytes halfCutOff.params.byteOrder (halfCutOff.byteAt halfCutOff.pc)
      (halfCutOff.byteAt (halfCutOff.pc + 1))) = true ∧
    (halfCutOff.pc + 2).toNat < halfCutOff.params.memSize ∧
    halfCutOff.params.memSize ≤ (halfCutOff.pc + 3).toNat := ⟨by unfold WordPopulated; decide, by decide, by decide, by decide⟩
theorem witness_FetchFaultsInOrder_opcode :
    WordPopulated (placed base [0x5800]) 0x0100 ∧
    (joinBytes .little ((placed base [0x5800]).byteAt 0x0100) ((placed base [0x5800]).byteAt 0x0101)).extractLsb' 11 5 =
      0b01011 := ⟨by unfold WordPopulated; decide, by decide⟩

/-- The end of populated memory, with X at its first and last byte and SP just below it. -/
def atEnd : State := { base with x := 0x0FFF, y := 0x1000, sp := 0x0FFF, params := small }
theorem witness_UnpopulatedDataAccessFaults :
    atEnd.params.memSize ≤ (atEnd.reg .y + (0 : Byte).setWidth 16).toNat ∧
    (atEnd.reg .x + (0 : Byte).setWidth 16).toNat < atEnd.params.memSize ∧
    atEnd.params.memSize ≤ (atEnd.reg .x + (0 : Byte).setWidth 16 + 1).toNat ∧
    atEnd.sp.toNat < atEnd.params.memSize ∧ atEnd.params.memSize ≤ (atEnd.sp + 1).toNat := by decide

theorem witness_FullMemoryAlwaysCompletes :
    base.params.memSize = 65536 ∧ base.pc.getLsbD 0 = false ∧
    (joinBytes base.params.byteOrder (base.byteAt base.pc) (base.byteAt (base.pc + 1))).extractLsb' 11 5 ≠ 0b01011 := by
  decide

/-- An HCF in the last word of memory. -/
def atHcf : State := placed { base with pc := 0xFFFE } [0x57FF]
theorem witness_HaltedIsFixedPoint : halted atHcf = true := by decide
theorem witness_HaltedExactlyAtHcf : halted base = false := by decide
theorem witness_HcfRepeatsItself :
    atHcf.pc.getLsbD 0 = false ∧ WordPopulated atHcf atHcf.pc ∧
    (joinBytes atHcf.params.byteOrder (atHcf.byteAt atHcf.pc) (atHcf.byteAt (atHcf.pc + 1))).extractLsb' 11 5 = 0b01010 :=
  ⟨by decide, by unfold WordPopulated; decide, by decide⟩
theorem witness_RunEndsAtFirstHalt :
    runToHalt 2 (placed base [0x0001, 0x5000]) =
      .halted { (placed base [0x0001, 0x5000]) with a := 0x0A0B, pc := 0x0102, flags := ⟨false, false, false, false⟩ } := by
  decide

theorem witness_StepKeepsSoundState :
    (placed { base with params := small } [0x7200]).sound = true ∧
    ∃ t, step (placed { base with params := small } [0x7200]) = .next t := ⟨by decide, _, rfl⟩
theorem witness_StartHoldsImage :
    Memory.wf [(0x0FFF, 7)] = true ∧ imageWellFormed small 0x0FFC [1, 2, 3] = true ∧ small.wellFormed = true := by decide
theorem witness_StepKeepsParameters : ∃ t, step base = .next t := ⟨_, rfl⟩
theorem witness_OnlySwpWritesArguments : (∃ t, exec (.addRR .sp .x) base = .next t) ∧ (Instr.addRR .sp .x).mnemonic = "add" :=
  ⟨⟨_, rfl⟩, rfl⟩
theorem witness_AccumulatorWriters : (∃ t, exec (.cmpI8 .a 1) base = .next t) ∧ (Instr.cmpI8 .a 1).mnemonic = "cmp" :=
  ⟨⟨_, rfl⟩, rfl⟩
theorem witness_FlagWriters : (∃ t, exec (.japI8 4) base = .next t) ∧ (Instr.japI8 4).mnemonic = "jap" := ⟨⟨_, rfl⟩, rfl⟩
theorem witness_MemoryWriters : (∃ t, exec (.ldaI8 .x 4) base = .next t) ∧ (Instr.ldaI8 .x 4).mnemonic = "lda" :=
  ⟨⟨_, rfl⟩, rfl⟩
theorem witness_ProgramCounterWriters :
    (∃ t, exec (.staI16 .x 4) base = .next t) ∧ (Instr.staI16 .x 4).mnemonic = "sta" ∧ (Instr.staI16 .x 4).size = 4 :=
  ⟨⟨_, rfl⟩, rfl, rfl⟩
theorem witness_FlagsReadOnlyByConditionalJumps :
    (∃ t, exec (.jmpI8 4) base = .next t) ∧ (∃ t, exec (.addI8 .a 4) base = .next t) ∧
    (Instr.jmpI8 4).mnemonic = "jmp" ∧ (Instr.addI8 .a 4).mnemonic = "add" := ⟨⟨_, rfl⟩, ⟨_, rfl⟩, rfl, rfl⟩
/-- For WordWriteThenRead, and for LdaForms, StaForms and JapForms under both byte orders. -/
theorem witness_word_around_the_end :
    base.mem.wf = true ∧ WordPopulated base 0xFFFF ∧ base.params.byteOrder = .little ∧
    ({ base with params := big } : State).params.byteOrder = .big := ⟨by decide, by unfold WordPopulated; decide, rfl, rfl⟩
theorem witness_StoreSeenByNextFetch :
    base.reg .x + (0xF5 : Byte).setWidth 16 = 0x0C00 ∧
    (∃ t, exec (.staI8 .x 0xF5) { base with pc := 0x0C00, a := 0x5000 } = .next t) ∧
    (Instr.hcf).size = 2 ∧ (0x5000 : Word) = Instr.hcf.firstWord := ⟨by decide, ⟨_, rfl⟩, rfl, rfl⟩

/-- For AddForms, SubForms, CmpForms, SgxForms, AndForms, OrForms, XorForms and InvForms. -/
theorem witness_operand_form_words :
    threeForms 0b00000 0x0205 0x0100 0x05E0 ∧ threeForms 0b00001 0x0801 0x0900 0x0BC0 ∧
    threeForms 0b00010 0x1001 0x1100 0x13C0 ∧ threeForms 0b00011 0x1880 0x1900 0x1BA0 ∧
    threeForms 0b00100 0x200F 0x2100 0x23C0 ∧ threeForms 0b00101 0x2801 0x2900 0x2BC0 ∧
    threeForms 0b00110 0x30FF 0x3100 0x3180 ∧ threeForms 0b00111 0x38FF 0x3900 0x3FA0 := by decide
/-- For LdaForms, LdabForms, StaForms and StabForms. -/
theorem witness_memory_form_words :
    threeForms 0b01100 0x6202 0x6300 0x63C0 ∧ threeForms 0b01101 0x6A01 0x6F00 0x6980 ∧
    threeForms 0b01110 0x7605 0x7300 0x7180 ∧ threeForms 0b01111 0x7C01 0x7900 0x7BE0 := by decide
/-- For the fifteen jumps and JapForms. -/
theorem witness_jump_form_words :
    threeForms 0b10000 0x8004 0x8100 0x8180 ∧ threeForms 0b10001 0x8804 0x8900 0x8980 ∧
    threeForms 0b10010 0x9004 0x9100 0x91C0 ∧ threeForms 0b10011 0x9804 0x9900 0x9980 ∧
    threeForms 0b10100 0xA004 0xA100 0xA180 ∧ threeForms 0b10101 0xA804 0xA900 0xA9A0 ∧
    threeForms 0b10110 0xB004 0xB100 0xB180 ∧ threeForms 0b10111 0xB804 0xB900 0xB980 ∧
    threeForms 0b11000 0xC004 0xC100 0xC180 ∧ threeForms 0b11001 0xC804 0xC900 0xC980 ∧
    threeForms 0b11010 0xD004 0xD100 0xD180 ∧ threeForms 0b11011 0xD804 0xD900 0xD980 ∧
    threeForms 0b11100 0xE004 0xE100 0xE180 ∧ threeForms 0b11101 0xE804 0xE900 0xE980 ∧
    threeForms 0b11110 0xF00E 0xF100 0xF1A0 ∧ threeForms 0b11111 0xF810 0xF900 0xF9E0 := by decide
/-- For SllForms, SrlForms, SraForms, SrrForms and SwpExchanges. -/
theorem witness_shift_words :
    (0x4014 : Word).extractLsb' 11 5 = 0b01000 ∧ ((0x4014 : Word).getLsbD 7 = false ∧ (0x4014 : Word).getLsbD 4 = true) ∧
    (0x4014 : Word).getLsbD 8 = false ∧ (0x4140 : Word).getLsbD 8 = true ∧
    ((0x4140 : Word).getLsbD 7 = false ∧ (0x4140 : Word).getLsbD 4 = false) ∧
    ((0x43C0 : Word).getLsbD 7 = true ∧ (0x43C0 : Word).getLsbD 4 = false) ∧
    ((0x43D0 : Word).getLsbD 7 = true ∧ (0x43D0 : Word).getLsbD 4 = true) ∧
    (0x49FF : Word).extractLsb' 11 5 = 0b01001 := by decide
/-- For the conditional jumps, taken and not taken: flags all 1, all 0, and N apart from V. -/
theorem witness_jump_flags :
    base.flags = ⟨true, true, true, true⟩ ∧
    ({ base with flags := ⟨false, false, false, false⟩ } : State).flags = ⟨false, false, false, false⟩ ∧
    ({ base with flags := ⟨true, false, true, false⟩ } : State).flags.n ≠
      ({ base with flags := ⟨true, false, true, false⟩ } : State).flags.v := by decide
/-- For the shifts with a register amount, and SgxForms. -/
theorem witness_parameter_values :
    Params.standard.shiftAmount = .low4 ∧ ({ Params.standard with shiftAmount := .full } : Params).shiftAmount = .full ∧
    Params.standard.sgxField = .bits6_5 ∧ ({ Params.standard with sgxField := .bits10_9 } : Params).sgxField = .bits10_9 := by
  decide
/-- For every statement that speaks of `CVOpen`. -/
theorem witness_cv_rules :
    Params.standard.cvRule = .zero ∧ ({ Params.standard with cvRule := .function } : Params).cvRule = .function ∧
    ({ Params.standard with cvRule := .draw } : Params).cvRule = .draw := by decide
theorem witness_AddFlagsAreRangeTests : ∃ t, exec (.addRR .a .x) base = .next t := ⟨_, rfl⟩
/-- For LdaForms, LdabForms, StaForms, StabForms and JapForms at the last populated byte and around the end of memory. -/
theorem witness_accesses_at_the_end :
    WordPopulated atEnd 0x0FFE ∧ (0x0FFF : Word).toNat < atEnd.params.memSize ∧ atEnd.mem.wf = true ∧
    WordPopulated { base with sp := 0xFFFF } 0xFFFF :=
  ⟨by unfold WordPopulated; decide, by decide, by decide, by unfold WordPopulated; decide⟩
/-- For UnsignedNamesAfterCompare and SignedNamesAfterCompare. -/
theorem witness_names_after_compare : ∃ t, exec (.cmpRR .a .x) base = .next t := ⟨_, rfl⟩
theorem witness_JumpCodesPairUp :
    (0x9900 : Word).getLsbD 15 = true ∧ (0x9900 : Word).extractLsb' 12 3 ≠ 0b111 ∧ (0x9900 : Word).getLsbD 8 = true ∧
    (0x9900 : Word).getLsbD 7 = false ∧ decodeWords 0x9900 0x2000 = .ok (.jeqI16 0x2000) ∧
    decodeWords (0x9900 ^^^ 0x0800) 0x2000 = .ok (.jneI16 0x2000) :=
  ⟨by decide, by decide, by decide, by decide, rfl, rfl⟩
theorem witness_AssembledJumpReachesTarget :
    ({ base with pc := 0x0000 } : State).pc = (0xFFFE : Word) + 2 ∧ asmTarget 0xFFFE 0x007F = .relative 127 ∧
    asmTarget 0xFFFE 0x0080 = .absolute 0x0080 := by decide
theorem witness_ImmediateFormsAgree : asmImmediate 0x00FF = .imm8 0xFF ∧ asmImmediate 0 = .imm8 0 := by decide

/-- For NegativeAndZeroOfResult: a writer of A and the three forms of CMP. -/
theorem witness_NegativeAndZeroOfResult :
    (∃ t, exec (.xorRR .a .a) base = .next t ∧ t.a = 0) ∧ (Instr.xorRR .a .a).mnemonic = "xor" ∧
    (∃ t, exec (.cmpI8 .a 0xFF) base = .next t) ∧ (∃ t, exec (.cmpI16 .x 0xFFFF) base = .next t) ∧
    (∃ t, exec (.cmpRR .y .y) base = .next t) := ⟨⟨_, rfl, by decide⟩, rfl, ⟨_, rfl⟩, ⟨_, rfl⟩, ⟨_, rfl⟩⟩

/-- After `jap #0x4000` at SP = 0x0300, and with SP 2 lower as the callee leaves it. -/
def called : State := { base with sp := 0x0300, pc := 0x4000, mem := [(0x300, 0x04), (0x301, 0x01)] }
theorem witness_ReturnAfterCall :
    exec (.japI16 0x4000) { base with sp := 0x0300, pc := 0x0102 } = .next called ∧
    WordPopulated { base with sp := 0x0300 } 0x0300 ∧
    ({ called with sp := 0x02FE } : State).sp = (0x0300 : Word) - 2 := ⟨rfl, by unfold WordPopulated; decide, by decide⟩

end Sys2Proof.Tests
end

section
/-! SUPPORT. What a step may do to the memory and the parameters, told once for every instruction, and the two
invariants that follow from it: the parameters never change (rules R6, R53) and a sound state stays sound (rules R50,
R62). -/

namespace Sys2Proof.Machine

/-! ### Memories reached by stores below a bound -/

/-- The memories that come from `m` by storing bytes at 16-bit addresses below `n`, in any number. -/
inductive StoresBelow (n : Nat) (m : Memory) : Memory → Prop
  | none : StoresBelow n m m
  | byte {m' : Memory} (addr : Word) (b : Byte) (inside : addr.toNat < n) (before : StoresBelow n m m') :
      StoresBelow n m (m'.write addr.toNat b)

theorem StoresBelow.wf {n : Nat} {m m' : Memory} (h : StoresBelow n m m') (hm : m.wf) : m'.wf := by
  induction h with
  | none => exact hm
  | byte addr b _ _ ih => exact Memory.write_wf _ addr.toNat b ih addr.isLt

theorem StoresBelow.all_below {n : Nat} {m m' : Memory} (h : StoresBelow n m m') (hm : ∀ cell ∈ m, cell.1 < n) :
    ∀ cell ∈ m', cell.1 < n := by
  induction h with
  | none => exact hm
  | byte addr b inside _ ih => exact Memory.write_all_below _ addr.toNat n b ih inside

/-! ### The effect of an update on parameters and memory -/

/-- `t` has the parameters of `s`, and its memory differs only by stores to populated bytes (rules R6, R62). -/
structure StoresPopulated (s t : State) : Prop where
  params : t.params = s.params
  mem : StoresBelow s.params.memSize s.mem t.mem

/-- An instruction whose one next state `u` keeps the parameters and the memory. -/
theorem StoresPopulated.of_next {o : Outcome} {s t u : State} (hu : o = .next u) (h : o = .next t)
    (hp : u.params = s.params) (hm : u.mem = s.mem) : StoresPopulated s t := by
  cases hu.symm.trans h
  exact ⟨hp, hm ▸ .none⟩

/-- What follows a store may change all but the parameters and the memory. -/
theorem StoresPopulated.congr {s t u : State} (h : StoresPopulated s t) (hp : u.params = t.params)
    (hm : u.mem = t.mem) : StoresPopulated s u :=
  ⟨hp.trans h.params, hm ▸ h.mem⟩

theorem storesPopulated_putByte (s : State) (addr : Word) (b : Byte) (h : s.populated addr) :
    StoresPopulated s (s.putByte addr b) :=
  ⟨rfl, .byte addr b (of_decide_eq_true h) .none⟩

theorem storesPopulated_putWord (s : State) (addr w : Word) (bo : ByteOrder) (low : s.populated addr)
    (high : s.populated (addr + 1#16)) : StoresPopulated s (s.putBytes addr (wordBytes bo w)) := by
  rw [putWord_eq]
  exact ⟨rfl, .byte _ _ (of_decide_eq_true high) (storesPopulated_putByte s addr _ low).mem⟩

/-! ### The effect of each instruction scheme -/

section
variable {s t : State}

theorem sumToA_storesPopulated {sum : Word → Word → Sum} {ra : Reg} {o : Operand}
    (h : sumToA sum ra o s = .next t) : StoresPopulated s t :=
  .of_next (sumToA_next sum ra o s) h (by simp) (by simp)

theorem sumToFlags_storesPopulated {sum : Word → Word → Sum} {ra : Reg} {o : Operand}
    (h : sumToFlags sum ra o s = .next t) : StoresPopulated s t :=
  .of_next (sumToFlags_next sum ra o s) h (by simp) (by simp)

theorem logicToA_storesPopulated {insn : CvInsn} {f : Word → Word → Word} {ra : Reg} {o : Operand}
    (h : logicToA insn f ra o s = .next t) : StoresPopulated s t :=
  .of_next (logicToA_next insn f ra o s) h (by simp) (by simp)

theorem unaryToA_storesPopulated {insn : CvInsn} {f : Word → Word} {o : Operand}
    (h : unaryToA insn f o s = .next t) : StoresPopulated s t :=
  .of_next (unaryToA_next insn f o s) h (by simp) (by simp)

theorem shiftToA_storesPopulated {insn : CvInsn} {shift : Word → Nat → Word} {ra : Reg} {n : Nat}
    (h : shiftToA insn shift ra n s = .next t) : StoresPopulated s t :=
  .of_next (shiftToA_next insn shift ra n s) h (by simp) (by simp)

theorem execSwp_storesPopulated {ra : Reg} (h : execSwp ra s = .next t) : StoresPopulated s t :=
  .of_next rfl h (by simp) (by simp)

theorem execHcf_storesPopulated (h : execHcf s = .next t) : StoresPopulated s t :=
  .of_next rfl h (by simp) (by simp)

theorem jump_storesPopulated {c : Cond} {g : Target} (h : jump c g s = .next t) : StoresPopulated s t :=
  .of_next (jump_next c g s) h (by simp) (by simp)

theorem loadedToA_storesPopulated {insn : CvInsn} {ea r : Word} {o : Operand}
    (h : loadedToA insn ea o s r = .next t) : StoresPopulated s t :=
  .of_next rfl h (by simp) (by simp)

theorem loadWord_storesPopulated {ra : Reg} {o : Operand} (h : loadWord ra o s = .next t) :
    StoresPopulated s t := by
  obtain ⟨-, loaded⟩ := (loadWord_next_iff ra o s t).1 h
  exact loadedToA_storesPopulated loaded

theorem loadByte_storesPopulated {ra : Reg} {o : Operand} (h : loadByte ra o s = .next t) :
    StoresPopulated s t := by
  obtain ⟨-, loaded⟩ := (loadByte_next_iff ra o s t).1 h
  exact loadedToA_storesPopulated loaded

theorem storeWord_storesPopulated {ra : Reg} {o : Operand} (h : storeWord ra o s = .next t) :
    StoresPopulated s t := by
  obtain ⟨⟨low, high⟩, rfl⟩ := (storeWord_next_iff ra o s t).1 h
  exact (storesPopulated_putWord s _ _ _ low high).congr (afterOperand_params _ o) (afterOperand_mem _ o)

theorem storeByte_storesPopulated {ra : Reg} {o : Operand} (h : storeByte ra o s = .next t) :
    StoresPopulated s t := by
  obtain ⟨inside, rfl⟩ := (storeByte_next_iff ra o s t).1 h
  exact (storesPopulated_putByte s _ _ inside).congr (afterOperand_params _ o) (afterOperand_mem _ o)

theorem jumpAndPush_storesPopulated {g : Target} (h : jumpAndPush g s = .next t) : StoresPopulated s t := by
  obtain ⟨⟨low, high⟩, rfl⟩ := (jumpAndPush_next_iff g s t).1 h
  exact (storesPopulated_putWord s _ _ _ low high).congr (setPc_params _ _) (setPc_mem _ _)

end

/-! ### The effect of an instruction and of a step -/

/-- The memory families and JAP store to populated bytes; all others leave the memory alone. -/
theorem exec_storesPopulated {i : Instr} {s t : State} (h : exec i s = .next t) : StoresPopulated s t := by
  cases i with
  | addI8 | addI16 | addRR | subI8 | subI16 | subRR => exact sumToA_storesPopulated h
  | cmpI8 | cmpI16 | cmpRR => exact sumToFlags_storesPopulated h
  | andI8 | andI16 | andRR | orI8 | orI16 | orRR | xorI8 | xorI16 | xorRR => exact logicToA_storesPopulated h
  | sgxI8 | sgxI16 | sgxRR | invI8 | invI16 | invRR => exact unaryToA_storesPopulated h
  | sllSHI | sllSHR | srlSHI | srlSHR | sraSHI | sraSHR | srrSHI | srrSHR => exact shiftToA_storesPopulated h
  | swp => exact execSwp_storesPopulated h
  | hcf => exact execHcf_storesPopulated h
  | ldaI8 | ldaI16 | ldaRR => exact loadWord_storesPopulated h
  | ldabI8 | ldabI16 | ldabRR => exact loadByte_storesPopulated h
  | staI8 | staI16 | staRR => exact storeWord_storesPopulated h
  | stabI8 | stabI16 | stabRR => exact storeByte_storesPopulated h
  | jncI8 | jncI16 | jncRR | jnsI8 | jnsI16 | jnsRR | jneI8 | jneI16 | jneRR | jeqI8 | jeqI16 | jeqRR
  | jloI8 | jloI16 | jloRR | jhsI8 | jhsI16 | jhsRR | jvcI8 | jvcI16 | jvcRR | jvsI8 | jvsI16 | jvsRR
  | jgeI8 | jgeI16 | jgeRR | jltI8 | jltI16 | jltRR | jhiI8 | jhiI16 | jhiRR | jlsI8 | jlsI16 | jlsRR
  | jgtI8 | jgtI16 | jgtRR | jleI8 | jleI16 | jleRR | jmpI8 | jmpI16 | jmpRR => exact jump_storesPopulated h
  | japI8 | japI16 | japRR => exact jumpAndPush_storesPopulated h

/-- The fetch adds nothing: it moves `pc` only. -/
theorem step_storesPopulated {s t : State} (h : step s = .next t) : StoresPopulated s t := by
  obtain ⟨i, -, executed⟩ := (step_next_iff s t).1 h
  obtain ⟨params, mem⟩ := exec_storesPopulated executed
  exact ⟨by simpa using params, by simpa using mem⟩

/-! ### The invariants -/

theorem memInside_iff (s : State) : memInside s = true ↔ ∀ cell ∈ s.mem, cell.1 < s.params.memSize := by
  simp [memInside]

theorem sound_iff (s : State) :
    s.sound = true ↔
      s.params.wellFormed = true ∧ s.mem.wf = true ∧ ∀ cell ∈ s.mem, cell.1 < s.params.memSize := by
  simp only [State.sound, Bool.and_eq_true, memInside_iff, and_assoc]

/-- Rules R50, R62: parameters kept, and stores to populated bytes only, are all that soundness needs. -/
theorem StoresPopulated.sound {s t : State} (h : StoresPopulated s t) (hs : s.sound = true) : t.sound = true := by
  obtain ⟨allowed, canonical, inside⟩ := (sound_iff s).1 hs
  rw [sound_iff, h.params]
  exact ⟨allowed, h.mem.wf canonical, h.mem.all_below inside⟩

/-- Settles O14: whatever a step stores, it stores at a populated address in canonical form. -/
theorem stepKeepsSoundState : Obligations.StepKeepsSoundState := by
  unfold Obligations.StepKeepsSoundState
  intro s t hs h
  exact (step_storesPopulated h).sound hs

/-- Settles O17: no instruction scheme writes the parameters. -/
theorem stepKeepsParameters : Obligations.StepKeepsParameters := by
  unfold Obligations.StepKeepsParameters
  intro s t h
  exact (step_storesPopulated h).params

end Sys2Proof.Machine
end

section
/-! SUPPORT. The step seen from the bytes at `pc`: the instruction they decode to is the one that executes (rules R26,
R83), and the fault that stops it otherwise (rules R29, R62, R87, R263). -/

namespace Sys2Proof.Machine

/-! ### The length of a decoded instruction -/

theorem isLong_iff (ir : Word) :
    isLong ir = true ↔ ir.getLsbD 8 = true ∧ ir.getLsbD 7 = false ∧ hasI16Form (opField ir) = true := by
  simp [isLong, modeBit, selectBit, and_assoc]

/-- A word that announces an immediate word selects the `I16` form of its major opcode (rules R81, R83). -/
theorem size_of_isLong {ir imm : Word} {i : Instr} (long : isLong ir = true) (decoded : decodeWords ir imm = .ok i) :
    i.size = 4 := by
  obtain ⟨h8, h7, hop⟩ := (isLong_iff ir).1 long
  have form (i8 i16 rr : Instr) : selectForm ir i8 i16 rr = i16 := selectForm_i16 i8 i16 rr h8 h7
  unfold decodeWords at decoded
  split at decoded
  case h_9 op | h_10 op | h_11 op => simp [hasI16Form, op] at hop
  case h_32 => cases decoded
  all_goals
    rw [form] at decoded
    cases decoded
    rfl

/-! ### The instruction at `pc` -/

/-- Of four bytes that decode, the first two are the instruction word and the other two its immediate word, if it has
one (rules R26, R83). -/
theorem decodeWords_of_decode {bo : ByteOrder} {b0 b1 b2 b3 : Byte} {i : Instr} {rest : List Byte}
    (h : decode bo [b0, b1, b2, b3] = .ok (i, rest)) :
    decodeWords (joinBytes bo b0 b1) (if isLong (joinBytes bo b0 b1) then joinBytes bo b2 b3 else 0) = .ok i := by
  have map_fst {e : Except DecodeError Instr} {l : List Byte} (he : e.map (fun j => (j, l)) = .ok (i, rest)) :
      e = .ok i := by
    cases e <;> simp_all [Except.map]
  simp only [decode] at h
  split at h
  case isTrue long => rw [if_pos long]; exact map_fst h
  case isFalse short => rw [if_neg short]; exact map_fst h

/-- Settles O7: the fetch reads the words that the four bytes hold, and hands on their instruction. -/
theorem stepRunsDecodedInstruction : Obligations.StepRunsDecodedInstruction := by
  unfold Obligations.StepRunsDecodedInstruction
  intro s i rest even populated decoded immPopulated
  have words := decodeWords_of_decode decoded
  have wordRead : s.readWord s.pc = .ok (joinBytes s.params.byteOrder (s.byteAt s.pc) (s.byteAt (s.pc + 1))) :=
    (readWord_ok_iff _ _ _).2 ⟨(wordPopulated_iff s s.pc).1 populated, rfl⟩
  refine step_of_fetch_instr s _ i ((fetch_instr_iff s s.advance i).2 ⟨even, _, _, wordRead, ?_, words, rfl⟩)
  rw [fetchImmediate]
  split
  case isTrue long =>
    have inside := (wordPopulated_iff s _).1 (immPopulated (size_of_isLong long words))
    refine (readWord_ok_iff _ _ _).2 ⟨inside, ?_⟩
    rw [BitVec.add_assoc]
    rfl
  case isFalse => rfl

/-! ### The faults of a fetch -/

/-- Settles O8: odd `pc`, then the word at `pc`, then its opcode, then its immediate word. -/
theorem fetchFaultsInOrder : Obligations.FetchFaultsInOrder := by
  unfold Obligations.FetchFaultsInOrder
  refine fun s => ⟨fun odd => step_of_fetch_fault s _ (fetch_misaligned s odd), fun even => ⟨?low, ?high, ?word⟩⟩
  case low =>
    intro out
    exact step_of_fetch_fault s _ (fetch_word_error s _ even (readWord_error_low s s.pc out))
  case high =>
    intro inside out
    exact step_of_fetch_fault s _ (fetch_word_error s _ even (readWord_error_high s s.pc inside out))
  case word =>
    rintro populated ir rfl
    have wordRead := (readWord_ok_iff s s.pc _).2 ⟨(wordPopulated_iff s s.pc).1 populated, rfl⟩
    refine ⟨fun unassigned => step_of_fetch_fault s _ (fetch_unassigned s _ even wordRead unassigned), fun long => ?_⟩
    have immediate_fault {bad : Word} (out : s.readWord (s.pc + 2) = .error bad) :
        step s = .fault (.unpopulatedAccess s.pc bad) :=
      step_of_fetch_fault s _ (fetch_immediate_error s _ _ even wordRead ((if_pos long).trans out))
    have next : s.pc + 3 = s.pc + 2 + 1#16 := by rw [BitVec.add_assoc]; rfl
    rw [next]
    exact ⟨fun out => immediate_fault (readWord_error_low s _ out),
      fun inside out => immediate_fault (readWord_error_high s _ inside out)⟩

end Sys2Proof.Machine
end

section
/-! SUPPORT. The start of a run: where `putBytes` leaves each byte of a list, and what a run starts from (rules R42,
R290, R291). -/

namespace Sys2Proof.Machine

/-! ### A list of bytes in memory -/

/-- Bytes put from `addr` on: `a` holds the byte whose index is its distance from `addr`, modulo 2^16, and keeps its own
where the list has none (rule R56). -/
theorem byteAt_putBytes (s : State) (addr : Word) (l : List Byte) (a : Word) (h : s.mem.wf) (fits : l.length ≤ 65536) :
    (s.putBytes addr l).byteAt a = l[(a - addr).toNat]?.getD (s.byteAt a) := by
  induction l generalizing s addr with
  | nil => rfl
  | cons b l ih =>
    rw [List.length_cons] at fits
    rw [State.putBytes, ih _ _ (putByte_wf s addr b h) (by omega)]
    by_cases here : a = addr
    · have around : (a - (addr + 1#16)).toNat = 65535 := by bv_omega
      have past : l[65535]? = none := List.getElem?_eq_none (by omega)
      rw [around, past, here, BitVec.sub_self]
      exact byteAt_putByte_same s addr b h
    · have further : (a - addr).toNat = (a - (addr + 1#16)).toNat + 1 := by bv_omega
      rw [further, List.getElem?_cons_succ, byteAt_putByte_other s addr a b here]

/-- A list of at most 2^16 bytes puts its byte `n` at `addr + n`. -/
theorem byteAt_putBytes_inside (s : State) (addr : Word) (l : List Byte) (n : Nat) (b : Byte) (h : s.mem.wf)
    (fits : l.length ≤ 65536) (listed : l[n]? = some b) :
    (s.putBytes addr l).byteAt (addr + BitVec.ofNat 16 n) = b := by
  obtain ⟨inside, -⟩ := List.getElem?_eq_some_iff.1 listed
  have distance : (addr + BitVec.ofNat 16 n - addr).toNat = n := by
    rw [BitVec.add_comm, BitVec.add_sub_cancel, BitVec.toNat_ofNat]
    omega
  rw [byteAt_putBytes s addr l _ h fits, distance, listed]
  rfl

/-- A list that ends inside memory leaves every byte below its first and above its last. -/
theorem byteAt_putBytes_outside (s : State) (addr : Word) (l : List Byte) (a : Word) (h : s.mem.wf)
    (fits : addr.toNat + l.length ≤ 65536) (outside : a.toNat < addr.toNat ∨ addr.toNat + l.length ≤ a.toNat) :
    (s.putBytes addr l).byteAt a = s.byteAt a := by
  have past : l.length ≤ (a - addr).toNat := by
    rw [BitVec.toNat_sub]
    omega
  rw [byteAt_putBytes s addr l a h (by omega), List.getElem?_eq_none past]
  rfl

/-! ### The start -/

/-- Rules R62, R291: a well-formed image ends inside the 64 kB of addresses. -/
theorem image_end_le {p : Params} {origin : Word} {image : List Byte} (hp : p.wellFormed = true)
    (hi : imageWellFormed p origin image = true) : origin.toNat + image.length ≤ 65536 := by
  simp only [Params.wellFormed, Params.memSizeInRange, Bool.and_eq_true, decide_eq_true_eq] at hp
  simp only [imageWellFormed, Bool.and_eq_true, decide_eq_true_eq] at hi
  omega

/-- Settles O16: a start writes the image and nothing else, and an image that fits does not come back around to
0x0000. -/
theorem startHoldsImage : Obligations.StartHoldsImage := by
  unfold Obligations.StartHoldsImage
  refine ⟨fun p a x y sp f m origin image canonical imageFits allowed => ?_, rfl⟩
  have fits := image_end_le allowed imageFits
  refine ⟨putBytes_pc _ _ _, putBytes_a _ _ _, putBytes_x _ _ _, putBytes_y _ _ _, putBytes_sp _ _ _,
    putBytes_flags _ _ _, putBytes_params _ _ _, ?_, ?_⟩
  · exact fun n b listed => byteAt_putBytes_inside _ origin image n b canonical (by omega) listed
  · exact fun addr outside => byteAt_putBytes_outside _ origin image addr canonical fits outside

/-- Settles O15: the default parameters are allowed, and a memory that lists nothing is canonical. -/
theorem resetIsSound : Obligations.ResetIsSound := by
  unfold Obligations.ResetIsSound
  rw [sound_iff]
  exact ⟨by decide, reset_mem_wf, List.forall_mem_nil _⟩

end Sys2Proof.Machine
end

section
/-! SUPPORT. What each instruction writes, told once for every instruction: from it, which instructions write the
registers, the flags, the memory and `pc` (rules R22 to R28, R36, R51) and what N and Z say of a result (rule R32). -/

namespace Sys2Proof.Machine

/-! ### The effect of an instruction -/

/-- `pc` past the words of an instruction that is no control instruction; the first increment is made (rules R26 to
R28). -/
def pcPast (s : State) (i : Instr) : Word := s.pc + (if i.size = 4 then 2 else 0)

/-- The instructions that write a result to A and the flags and nothing else but `pc` (rules R22, R36). -/
def resultNames : List String :=
  ["add", "and", "inv", "lda", "ldab", "or", "sll", "srl", "sra", "srr", "sgx", "sub", "xor"]

/-- The instructions that write `pc` and nothing else (rules R28, R150, R154). -/
def transferNames : List String :=
  ["hcf", "jnc", "jns", "jne", "jeq", "jlo", "jhs", "jvc", "jvs", "jge", "jlt", "jhi", "jls", "jgt", "jle", "jmp"]

/-- The end states the instruction `i` can reach from `s`, by what it writes. -/
inductive Effect (s : State) (i : Instr) : State → Prop
  | result (r : Word) (c v : Bool) (draws : Nat) (name : i.mnemonic ∈ resultNames) :
      Effect s i { s with a := r, pc := pcPast s i, flags := flagsOf r c v, draws }
  | swap (ra : Reg) (c v : Bool) (draws : Nat) (name : i.mnemonic = "swp") (short : i.size = 2) :
      Effect s i { (s.setReg .a (s.reg ra)).setReg ra s.a with flags := flagsOf (s.reg ra) c v, draws }
  | compare (f : Flags) (name : i.mnemonic = "cmp") : Effect s i { s with pc := pcPast s i, flags := f }
  | store (mem : Memory) (name : i.mnemonic ∈ ["sta", "stab"]) : Effect s i { s with pc := pcPast s i, mem }
  | transfer (pc : Word) (name : i.mnemonic ∈ transferNames) : Effect s i { s with pc }
  | push (pc : Word) (mem : Memory) (name : i.mnemonic = "jap") : Effect s i { s with pc, mem }

/-! ### The effect of each instruction scheme -/

/-- An operand and an instruction are of one length: both have an immediate word or neither has (rule R83). -/
def Operand.fits (o : Operand) (i : Instr) : Prop := i.size = match o with | .imm16 _ => 4 | _ => 2

section
variable {s t : State} {i : Instr} {o : Operand}

theorem afterOperand_eq (fits : o.fits i) : afterOperand s o = { s with pc := pcPast s i } := by
  unfold Operand.fits at fits
  cases o <;> simp [afterOperand, pcPast, fits, State.advance, State.setPc]

theorem pcPast_of_short (short : i.size = 2) : pcPast s i = s.pc := by
  simp [pcPast, short]

theorem sumToA_effect {sum : Word → Word → Sum} {ra : Reg} (h : sumToA sum ra o s = .next t) (fits : o.fits i)
    (name : i.mnemonic ∈ resultNames) : Effect s i t := by
  cases (sumToA_next sum ra o s).symm.trans h
  rw [afterOperand_eq fits]
  exact .result _ _ _ _ name

theorem sumToFlags_effect {sum : Word → Word → Sum} {ra : Reg} (h : sumToFlags sum ra o s = .next t)
    (fits : o.fits i) (name : i.mnemonic = "cmp") : Effect s i t := by
  cases (sumToFlags_next sum ra o s).symm.trans h
  rw [afterOperand_eq fits]
  exact .compare _ name

theorem logicToA_effect {insn : CvInsn} {f : Word → Word → Word} {ra : Reg} (h : logicToA insn f ra o s = .next t)
    (fits : o.fits i) (name : i.mnemonic ∈ resultNames) : Effect s i t := by
  cases (logicToA_next insn f ra o s).symm.trans h
  rw [afterOperand_eq fits]
  exact .result _ _ _ _ name

theorem unaryToA_effect {insn : CvInsn} {f : Word → Word} (h : unaryToA insn f o s = .next t) (fits : o.fits i)
    (name : i.mnemonic ∈ resultNames) : Effect s i t := by
  cases (unaryToA_next insn f o s).symm.trans h
  rw [afterOperand_eq fits]
  exact .result _ _ _ _ name

theorem shiftToA_effect {insn : CvInsn} {shift : Word → Nat → Word} {ra : Reg} {n : Nat}
    (h : shiftToA insn shift ra n s = .next t) (short : i.size = 2) (name : i.mnemonic ∈ resultNames) :
    Effect s i t := by
  cases (shiftToA_next insn shift ra n s).symm.trans h
  have effect (c v : Bool) (draws : Nat) := Effect.result (s := s) (shift (s.reg ra) n) c v draws name
  rw [pcPast_of_short short] at effect
  exact effect _ _ _

theorem execSwp_effect {ra : Reg} (h : execSwp ra s = .next t) (short : i.size = 2) (name : i.mnemonic = "swp") :
    Effect s i t := by
  cases h
  exact .swap ra _ _ _ name short

theorem loadedToA_effect {insn : CvInsn} {ea r : Word} (h : loadedToA insn ea o s r = .next t) (fits : o.fits i)
    (name : i.mnemonic ∈ resultNames) : Effect s i t := by
  cases h
  rw [afterOperand_eq fits]
  exact .result _ _ _ _ name

theorem loadWord_effect {ra : Reg} (h : loadWord ra o s = .next t) (fits : o.fits i)
    (name : i.mnemonic ∈ resultNames) : Effect s i t :=
  loadedToA_effect ((loadWord_next_iff ra o s t).1 h).2 fits name

theorem loadByte_effect {ra : Reg} (h : loadByte ra o s = .next t) (fits : o.fits i)
    (name : i.mnemonic ∈ resultNames) : Effect s i t :=
  loadedToA_effect ((loadByte_next_iff ra o s t).1 h).2 fits name

theorem storeWord_effect {ra : Reg} (h : storeWord ra o s = .next t) (fits : o.fits i)
    (name : i.mnemonic ∈ ["sta", "stab"]) : Effect s i t := by
  obtain ⟨-, rfl⟩ := (storeWord_next_iff ra o s t).1 h
  rw [afterOperand_eq fits]
  exact .store _ name

theorem storeByte_effect {ra : Reg} (h : storeByte ra o s = .next t) (fits : o.fits i)
    (name : i.mnemonic ∈ ["sta", "stab"]) : Effect s i t := by
  obtain ⟨-, rfl⟩ := (storeByte_next_iff ra o s t).1 h
  rw [afterOperand_eq fits]
  exact .store _ name

theorem jump_effect {c : Cond} {g : Target} (h : jump c g s = .next t) (name : i.mnemonic ∈ transferNames) :
    Effect s i t := by
  cases (jump_next c g s).symm.trans h
  exact .transfer _ name

theorem execHcf_effect (h : execHcf s = .next t) (name : i.mnemonic ∈ transferNames) : Effect s i t := by
  cases h
  exact .transfer _ name

theorem jumpAndPush_effect {g : Target} (h : jumpAndPush g s = .next t) (name : i.mnemonic = "jap") :
    Effect s i t := by
  obtain ⟨-, rfl⟩ := (jumpAndPush_next_iff g s t).1 h
  exact .push _ _ name

end

/-! ### The effect of every instruction -/

/-- Every instruction that completes has the effect of its scheme. -/
theorem exec_effect {i : Instr} {s t : State} (h : exec i s = .next t) : Effect s i t := by
  cases i with
  | addI8 | addI16 | addRR | subI8 | subI16 | subRR =>
    exact sumToA_effect h rfl (by simp [resultNames, Instr.mnemonic])
  | cmpI8 | cmpI16 | cmpRR => exact sumToFlags_effect h rfl rfl
  | andI8 | andI16 | andRR | orI8 | orI16 | orRR | xorI8 | xorI16 | xorRR =>
    exact logicToA_effect h rfl (by simp [resultNames, Instr.mnemonic])
  | sgxI8 | sgxI16 | sgxRR | invI8 | invI16 | invRR =>
    exact unaryToA_effect h rfl (by simp [resultNames, Instr.mnemonic])
  | sllSHI | sllSHR | srlSHI | srlSHR | sraSHI | sraSHR | srrSHI | srrSHR =>
    exact shiftToA_effect h rfl (by simp [resultNames, Instr.mnemonic])
  | swp => exact execSwp_effect h rfl rfl
  | hcf => exact execHcf_effect h (by simp [transferNames, Instr.mnemonic])
  | ldaI8 | ldaI16 | ldaRR => exact loadWord_effect h rfl (by simp [resultNames, Instr.mnemonic])
  | ldabI8 | ldabI16 | ldabRR => exact loadByte_effect h rfl (by simp [resultNames, Instr.mnemonic])
  | staI8 | staI16 | staRR => exact storeWord_effect h rfl (by simp [Instr.mnemonic])
  | stabI8 | stabI16 | stabRR => exact storeByte_effect h rfl (by simp [Instr.mnemonic])
  | jncI8 | jncI16 | jncRR | jnsI8 | jnsI16 | jnsRR | jneI8 | jneI16 | jneRR | jeqI8 | jeqI16 | jeqRR
  | jloI8 | jloI16 | jloRR | jhsI8 | jhsI16 | jhsRR | jvcI8 | jvcI16 | jvcRR | jvsI8 | jvsI16 | jvsRR
  | jgeI8 | jgeI16 | jgeRR | jltI8 | jltI16 | jltRR | jhiI8 | jhiI16 | jhiRR | jlsI8 | jlsI16 | jlsRR
  | jgtI8 | jgtI16 | jgtRR | jleI8 | jleI16 | jleRR | jmpI8 | jmpI16 | jmpRR =>
    exact jump_effect h (by simp [transferNames, Instr.mnemonic])
  | japI8 | japI16 | japRR => exact jumpAndPush_effect h rfl

/-! ### The writers of each part of the state -/

/-- Settles O18: no effect but a swap writes X, Y or SP. -/
theorem onlySwpWritesArguments : Obligations.OnlySwpWritesArguments := by
  unfold Obligations.OnlySwpWritesArguments
  intro i s t h notSwp
  cases exec_effect h with
  | swap _ _ _ _ name => exact absurd name notSwp
  | result | compare | store | transfer | push => exact ⟨rfl, rfl, rfl⟩

/-- Settles O19: no effect but a result and a swap writes A. -/
theorem accumulatorWriters : Obligations.AccumulatorWriters := by
  unfold Obligations.AccumulatorWriters
  intro i s t h notWriter
  cases exec_effect h with
  | result _ _ _ _ name => exact absurd ((by decide : resultNames ⊆ _) name) notWriter
  | swap _ _ _ _ name => simp [name] at notWriter
  | compare | store | transfer | push => rfl

/-- Settles O20: no effect but a result, a swap and a comparison writes the flags. -/
theorem flagWriters : Obligations.FlagWriters := by
  unfold Obligations.FlagWriters
  intro i s t h notWriter
  cases exec_effect h with
  | result _ _ _ _ name => exact absurd ((by decide : resultNames ⊆ _) name) notWriter
  | swap _ _ _ _ name | compare _ name => simp [name] at notWriter
  | store | transfer | push => rfl

/-- Settles O21: no effect but a store and a push writes memory. -/
theorem memoryWriters : Obligations.MemoryWriters := by
  unfold Obligations.MemoryWriters
  intro i s t h notWriter
  cases exec_effect h with
  | store _ name => exact absurd ((by decide : ["sta", "stab"] ⊆ _) name) notWriter
  | push _ _ name => simp [name] at notWriter
  | swap => simp
  | result | compare | transfer => rfl

/-- Settles O22: no effect but a transfer and a push takes `pc` elsewhere, and a swap has one word. -/
theorem programCounterWriters : Obligations.ProgramCounterWriters := by
  unfold Obligations.ProgramCounterWriters
  intro i s t h notControl
  cases exec_effect h with
  | transfer _ name => exact absurd ((by decide : transferNames ⊆ _) name) notControl
  | push _ _ name => simp [name] at notControl
  | swap _ _ _ _ _ short => simp [short]
  | result | compare | store => rfl

/-! ### N and Z of a result -/

theorem swap_a (s : State) (ra : Reg) : ((s.setReg .a (s.reg ra)).setReg ra s.a).a = s.reg ra := by
  cases ra <;> rfl

/-- A result and a swap set N and Z from the new A (rule R32). -/
theorem Effect.nzFrom_a {s t : State} {i : Instr} (effect : Effect s i t)
    (writer : i.mnemonic ∈ "swp" :: resultNames) : NZFrom t.a t.flags := by
  cases effect with
  | result r c v => exact nzFrom_flagsOf r c v
  | swap ra c v =>
    rw [swap_a]
    exact nzFrom_flagsOf (s.reg ra) c v
  | compare _ name | push _ _ name => simp [resultNames, name] at writer
  | store _ name => exact absurd writer ((by decide : ∀ n ∈ ["sta", "stab"], n ∉ "swp" :: resultNames) _ name)
  | transfer _ name => exact absurd writer ((by decide : ∀ n ∈ transferNames, n ∉ "swp" :: resultNames) _ name)

/-- A comparison sets N and Z from the difference (rules R32, R123). -/
theorem nzFrom_of_compare {s t : State} {ra : Reg} {o : Operand} (h : sumToFlags sub16 ra o s = .next t) :
    NZFrom (s.reg ra - operandValue s o) t.flags := by
  cases (sumToFlags_next sub16 ra o s).symm.trans h
  rw [← sub16_r]
  exact nzFrom_flagsOf _ _ _

/-- Settles O59: a result and a swap take N and Z from the new A, a comparison from the difference. -/
theorem negativeAndZeroOfResult : Obligations.NegativeAndZeroOfResult := by
  unfold Obligations.NegativeAndZeroOfResult
  refine fun i s t h => ⟨fun writer => (exec_effect h).nzFrom_a ((by decide : _ ⊆ "swp" :: resultNames) writer),
    ?_, ?_, ?_⟩
  · rintro ra k rfl
    exact nzFrom_of_compare (o := .imm8 k) h
  · rintro ra k rfl
    exact nzFrom_of_compare (o := .imm16 k) h
  · rintro ra rb rfl
    exact nzFrom_of_compare (o := .reg rb) h

end Sys2Proof.Machine
end

section
/-! SUPPORT. The flags are read by the conditional jumps only (rules R36, R37): each other instruction scheme from a
state with other flags. -/

namespace Sys2Proof.Machine

/-! ### Other flags in a state -/

/-- The state with other flags and nothing else changed. -/
def State.setFlags (s : State) (f : Flags) : State := { s with flags := f }

@[simp] theorem afterOperand_setFlags (s : State) (f : Flags) (o : Operand) :
    afterOperand (s.setFlags f) o = (afterOperand s o).setFlags f := by
  cases o <;> rfl

/-! ### Schemes that write the flags: the same end state -/

section
variable (s : State) (f : Flags)

theorem sumToA_setFlags (sum : Word → Word → Sum) (ra : Reg) (o : Operand) :
    sumToA sum ra o (s.setFlags f) = sumToA sum ra o s := by
  simp only [sumToA_next, afterOperand_setFlags]
  rfl

theorem sumToFlags_setFlags (sum : Word → Word → Sum) (ra : Reg) (o : Operand) :
    sumToFlags sum ra o (s.setFlags f) = sumToFlags sum ra o s := by
  simp only [sumToFlags_next, afterOperand_setFlags]
  rfl

theorem logicToA_setFlags (insn : CvInsn) (g : Word → Word → Word) (ra : Reg) (o : Operand) :
    logicToA insn g ra o (s.setFlags f) = logicToA insn g ra o s := by
  simp only [logicToA_next, afterOperand_setFlags]
  rfl

theorem unaryToA_setFlags (insn : CvInsn) (g : Word → Word) (o : Operand) :
    unaryToA insn g o (s.setFlags f) = unaryToA insn g o s := by
  simp only [unaryToA_next, afterOperand_setFlags]
  rfl

theorem shiftToA_setFlags (insn : CvInsn) (shift : Word → Nat → Word) (ra : Reg) (n : Nat) :
    shiftToA insn shift ra n (s.setFlags f) = shiftToA insn shift ra n s := rfl

theorem execSwp_setFlags (ra : Reg) : execSwp ra (s.setFlags f) = execSwp ra s := by
  cases ra <;> rfl

theorem loadedToA_setFlags (insn : CvInsn) (ea : Word) (o : Operand) (r : Word) :
    loadedToA insn ea o (s.setFlags f) r = loadedToA insn ea o s r := by
  simp only [loadedToA, afterOperand_setFlags]
  rfl

theorem loadWord_setFlags (ra : Reg) (o : Operand) : loadWord ra o (s.setFlags f) = loadWord ra o s := by
  simp only [loadWord, loadedToA_setFlags]
  rfl

theorem loadByte_setFlags (ra : Reg) (o : Operand) : loadByte ra o (s.setFlags f) = loadByte ra o s := by
  simp only [loadByte, loadedToA_setFlags]
  rfl

end

/-! ### Schemes that leave the flags: the same end state but for them -/

section
variable {s t : State} (f : Flags)

theorem storeWord_setFlags {ra : Reg} {o : Operand} (h : storeWord ra o s = .next t) :
    storeWord ra o (s.setFlags f) = .next (t.setFlags f) := by
  obtain ⟨populated, rfl⟩ := (storeWord_next_iff ra o s t).1 h
  exact (storeWord_next_iff ra o _ _).2 ⟨populated, (afterOperand_setFlags _ f o).symm⟩

theorem storeByte_setFlags {ra : Reg} {o : Operand} (h : storeByte ra o s = .next t) :
    storeByte ra o (s.setFlags f) = .next (t.setFlags f) := by
  obtain ⟨populated, rfl⟩ := (storeByte_next_iff ra o s t).1 h
  exact (storeByte_next_iff ra o _ _).2 ⟨populated, (afterOperand_setFlags _ f o).symm⟩

theorem jumpAndPush_setFlags {g : Target} (h : jumpAndPush g s = .next t) :
    jumpAndPush g (s.setFlags f) = .next (t.setFlags f) := by
  obtain ⟨populated, rfl⟩ := (jumpAndPush_next_iff g s t).1 h
  refine (jumpAndPush_next_iff g _ _).2 ⟨populated, ?_⟩
  cases g <;> rfl

theorem execHcf_setFlags (h : execHcf s = .next t) : execHcf (s.setFlags f) = .next (t.setFlags f) := by
  cases h
  rfl

/-- JMP is always taken, whatever the flags are (rule R170). -/
theorem jump_mp_setFlags {g : Target} (h : jump .mp g s = .next t) :
    jump .mp g (s.setFlags f) = .next (t.setFlags f) := by
  cases (jump_next .mp g s).symm.trans h
  cases g <;> rfl

end

/-! ### Every instruction but the conditional jumps -/

/-- The unconditional instructions that write no flag (rules R36, R37). -/
def flagKeeperNames : List String := ["hcf", "jap", "jmp", "sta", "stab"]

/-- Settles O23: scheme by scheme, the flags are overwritten or carried along. -/
theorem flagsReadOnlyByConditionalJumps : Obligations.FlagsReadOnlyByConditionalJumps := by
  unfold Obligations.FlagsReadOnlyByConditionalJumps
  intro i s t f h unconditional
  change exec i (s.setFlags f) = .next (if i.mnemonic ∈ flagKeeperNames then t.setFlags f else t)
  have overwritten (writer : i.mnemonic ∉ flagKeeperNames) (same : exec i (s.setFlags f) = exec i s) :
      exec i (s.setFlags f) = .next (if i.mnemonic ∈ flagKeeperNames then t.setFlags f else t) := by
    rw [if_neg writer, same, h]
  have carried (keeper : i.mnemonic ∈ flagKeeperNames) (along : exec i (s.setFlags f) = .next (t.setFlags f)) :
      exec i (s.setFlags f) = .next (if i.mnemonic ∈ flagKeeperNames then t.setFlags f else t) := by
    rw [if_pos keeper, along]
  cases i with
  | addI8 | addI16 | addRR | subI8 | subI16 | subRR =>
    exact overwritten (by simp [flagKeeperNames, Instr.mnemonic]) (sumToA_setFlags s f _ _ _)
  | cmpI8 | cmpI16 | cmpRR => exact overwritten (by simp [flagKeeperNames, Instr.mnemonic]) (sumToFlags_setFlags s f _ _ _)
  | andI8 | andI16 | andRR | orI8 | orI16 | orRR | xorI8 | xorI16 | xorRR =>
    exact overwritten (by simp [flagKeeperNames, Instr.mnemonic]) (logicToA_setFlags s f _ _ _ _)
  | sgxI8 | sgxI16 | sgxRR | invI8 | invI16 | invRR =>
    exact overwritten (by simp [flagKeeperNames, Instr.mnemonic]) (unaryToA_setFlags s f _ _ _)
  | sllSHI | sllSHR | srlSHI | srlSHR | sraSHI | sraSHR | srrSHI | srrSHR =>
    exact overwritten (by simp [flagKeeperNames, Instr.mnemonic]) (shiftToA_setFlags s f _ _ _ _)
  | swp => exact overwritten (by simp [flagKeeperNames, Instr.mnemonic]) (execSwp_setFlags s f _)
  | ldaI8 | ldaI16 | ldaRR => exact overwritten (by simp [flagKeeperNames, Instr.mnemonic]) (loadWord_setFlags s f _ _)
  | ldabI8 | ldabI16 | ldabRR => exact overwritten (by simp [flagKeeperNames, Instr.mnemonic]) (loadByte_setFlags s f _ _)
  | hcf => exact carried (by simp [flagKeeperNames, Instr.mnemonic]) (execHcf_setFlags f h)
  | staI8 | staI16 | staRR => exact carried (by simp [flagKeeperNames, Instr.mnemonic]) (storeWord_setFlags f h)
  | stabI8 | stabI16 | stabRR => exact carried (by simp [flagKeeperNames, Instr.mnemonic]) (storeByte_setFlags f h)
  | jmpI8 | jmpI16 | jmpRR => exact carried (by simp [flagKeeperNames, Instr.mnemonic]) (jump_mp_setFlags f h)
  | japI8 | japI16 | japRR => exact carried (by simp [flagKeeperNames, Instr.mnemonic]) (jumpAndPush_setFlags f h)
  | jncI8 | jncI16 | jncRR | jnsI8 | jnsI16 | jnsRR | jneI8 | jneI16 | jneRR | jeqI8 | jeqI16 | jeqRR
  | jloI8 | jloI16 | jloRR | jhsI8 | jhsI16 | jhsRR | jvcI8 | jvcI16 | jvcRR | jvsI8 | jvsI16 | jvsRR
  | jgeI8 | jgeI16 | jgeRR | jltI8 | jltI16 | jltRR | jhiI8 | jhiI16 | jhiRR | jlsI8 | jlsI16 | jlsRR
  | jgtI8 | jgtI16 | jgtRR | jleI8 | jleI16 | jleRR => exact absurd (by simp [Instr.mnemonic]) unconditional

end Sys2Proof.Machine
end

section
/-! SUPPORT. What the flags of ADD and CMP say of the operands as unsigned and as signed numbers (rules R33, R34), and
so when a conditional jump after CMP is taken (rule R155). -/

namespace Sys2Proof.Machine

/-! ### The flags as range tests and comparisons -/

/-- V of ADD is the signed overflow of the library (rule R33). -/
theorem add16_v_eq_saddOverflow (a b : Word) : (add16 a b).v = a.saddOverflow b := by
  have sum : BitVec.ofNat 16 (a.toNat + b.toNat) = a + b := add16_r a b
  rw [BitVec.saddOverflow_eq, add16, sum]
  rfl

theorem saddOverflow_iff (a b : Word) :
    a.saddOverflow b = true ↔ ¬ (-32768 ≤ a.toInt + b.toInt ∧ a.toInt + b.toInt ≤ 32767) := by
  simp only [BitVec.saddOverflow, Bool.or_eq_true, decide_eq_true_eq]
  omega

/-- Settles O34: C is the carry out of bit 15, V the signed overflow; without overflow the signed sum is exact. -/
theorem addFlagsAreRangeTests : Obligations.AddFlagsAreRangeTests := by
  unfold Obligations.AddFlagsAreRangeTests
  intro s t ra rb h
  cases (sumToA_next add16 ra (.reg rb) s).symm.trans h
  refine ⟨?_, ?_, fun noOverflow => ?_⟩
  · exact (add16_c _ _).trans Nat.lt_iff_add_one_le.symm
  · rw [← saddOverflow_iff, ← add16_v_eq_saddOverflow]
    rfl
  · have fits : ¬ (s.reg ra).saddOverflow (s.reg rb) = true := by
      rw [← add16_v_eq_saddOverflow]
      exact Bool.eq_false_iff.1 noOverflow
    calc (add16 (s.reg ra) (s.reg rb)).r.toInt = (s.reg ra + s.reg rb).toInt := by rw [add16_r]
      _ = (s.reg ra).toInt + (s.reg rb).toInt := BitVec.toInt_add_of_not_saddOverflow fits

/-- N and V of a difference agree exactly when the signed comparison is "greater than or equal" (rules R34, R155). -/
theorem sub16_msb_eq_v (a b : Word) : (a - b).msb = (sub16 a b).v ↔ b.toInt ≤ a.toInt := by
  have v := sub16_v a b
  have n : (a - b).msb = true ↔ (a.toInt - b.toInt).bmod 65536 < 0 := by
    rw [BitVec.msb_eq_toInt, BitVec.toInt_sub, decide_eq_true_eq]
  have boundsA := And.intro a.le_toInt a.toInt_lt
  have boundsB := And.intro b.le_toInt b.toInt_lt
  rw [Bool.eq_iff_iff, n, v, Int.bmod_def]
  omega

/-! ### The flags after CMP -/

/-- What the flags say after a comparison of `a` with `b`. -/
structure Compared (a b : Word) (f : Flags) : Prop where
  zero : f.z = true ↔ a.toNat = b.toNat
  carry : f.c = true ↔ b.toNat ≤ a.toNat
  signed : f.n = f.v ↔ b.toInt ≤ a.toInt

theorem compared_of_cmpRR {s t : State} {ra rb : Reg} (h : exec (.cmpRR ra rb) s = .next t) :
    Compared (s.reg ra) (s.reg rb) t.flags := by
  cases (sumToFlags_next sub16 ra (.reg rb) s).symm.trans h
  refine ⟨?_, sub16_c _ _, ?_⟩
  · rw [setSumFlags_flags, flagsOf_z, sub16_r, decide_eq_true_eq, BitVec.sub_eq_iff_eq_add, BitVec.zero_add]
    exact BitVec.toNat_inj.symm
  · rw [← sub16_msb_eq_v, ← sub16_r]
    rfl

/-! ### Jumps after CMP -/

/-- An absolute jump whose condition says `p` (rules R153, R154, R172). -/
theorem jump_absolute_eq {t : State} {c : Cond} {p : Prop} [Decidable p] (k : Word)
    (meaning : condHolds t.flags c = true ↔ p) :
    jump c (.absolute k) t = .next { t with pc := if p then k else t.pc + 2 } := by
  rw [jump_next]
  simp only [meaning]
  rfl

/-- Settles O51: C is "no borrow" and Z is equality. -/
theorem unsignedNamesAfterCompare : Obligations.UnsignedNamesAfterCompare := by
  unfold Obligations.UnsignedNamesAfterCompare
  intro s t ra rb k h
  obtain ⟨zero, carry, -⟩ := compared_of_cmpRR h
  refine ⟨jump_absolute_eq k ?lo, jump_absolute_eq k ?hs, jump_absolute_eq k ?hi, jump_absolute_eq k ?ls,
    jump_absolute_eq k ?eq, jump_absolute_eq k ?ne⟩
  case hs => exact carry
  case eq => exact zero
  case ne => simp only [condHolds, Bool.not_eq_true', ← Bool.not_eq_true, zero, ne_eq]
  all_goals
    simp only [condHolds, Bool.and_eq_true, Bool.or_eq_true, Bool.not_eq_true', ← Bool.not_eq_true, zero, carry]
    omega

/-- Settles O52: N and V agree exactly when the signed comparison is "greater than or equal", and Z is equality. -/
theorem signedNamesAfterCompare : Obligations.SignedNamesAfterCompare := by
  unfold Obligations.SignedNamesAfterCompare
  intro s t ra rb k h
  obtain ⟨zero, -, signed⟩ := compared_of_cmpRR h
  rw [BitVec.toNat_inj, ← BitVec.toInt_inj] at zero
  refine ⟨jump_absolute_eq k ?lt, jump_absolute_eq k ?ge, jump_absolute_eq k ?gt, jump_absolute_eq k ?le⟩
  case ge => exact beq_iff_eq.trans signed
  all_goals
    simp only [condHolds, Bool.and_eq_true, Bool.or_eq_true, Bool.not_eq_true', ← Bool.not_eq_true, beq_iff_eq,
      bne_iff_ne, ne_eq, zero, signed]
    omega

end Sys2Proof.Machine
end

section
/-! SUPPORT. Accesses to memory, populated or not: a stored word reads back (rules R50 to R56), an access outside the
populated addresses faults (rules R62, R261), and with every address populated nothing but a fetch can stop the machine
(rule R260). -/

namespace Sys2Proof.Machine

/-! ### A stored word -/

/-- Rules R52, R53: the bytes of a stored word join to it again. -/
theorem readWord_putWord (s : State) (addr w : Word) (h : s.mem.wf)
    (inside : s.populated addr ∧ s.populated (addr + 1#16)) :
    (s.putBytes addr (wordBytes s.params.byteOrder w)).readWord addr = .ok w := by
  refine (readWord_ok_iff _ _ _).2 ⟨?_, ?_⟩
  · simpa only [State.populated, putBytes_params] using inside
  · rw [byteAt_putWord_low s addr w _ h, byteAt_putWord_high s addr w _ h, putBytes_params, joinBytes_splitWord]

/-- Settles O24: a store puts the two bytes of the word, in the byte order, where the next read finds them. -/
theorem wordWriteThenRead : Obligations.WordWriteThenRead := by
  unfold Obligations.WordWriteThenRead
  intro s addr w canonical populated
  have inside := (wordPopulated_iff s addr).1 populated
  have low := byteAt_putWord_low s addr w s.params.byteOrder canonical
  have high := byteAt_putWord_high s addr w s.params.byteOrder canonical
  refine ⟨_, (writeWord_ok_iff s _ addr w).2 ⟨inside, rfl⟩, readWord_putWord s addr w canonical inside, ?_, ?_, ?_⟩
  · intro little
    rw [little] at low high ⊢
    exact ⟨low, high⟩
  · intro big
    rw [big] at low high ⊢
    exact ⟨low, high⟩
  · exact fun other h0 h1 => byteAt_putWord_other s addr other w _ h0 h1

/-! ### Accesses outside the populated addresses -/

theorem checkWord_error_low {s : State} {addr : Word} (out : s.params.memSize ≤ addr.toNat) :
    s.checkWord addr = .error addr :=
  (readWord_error_iff s addr addr).1 (readWord_error_low s addr out)

theorem checkWord_error_high {s : State} {addr : Word} (inside : addr.toNat < s.params.memSize)
    (out : s.params.memSize ≤ (addr + 1#16).toNat) : s.checkWord addr = .error (addr + 1#16) :=
  (readWord_error_iff s addr _).1 (readWord_error_high s addr inside out)

theorem populated_eq_false {s : State} {addr : Word} (out : s.params.memSize ≤ addr.toNat) :
    s.populated addr = false :=
  decide_eq_false (Nat.not_lt.2 out)

section
variable {s : State} {ra : Reg} {o : Operand} {bad : Word}

theorem loadWord_fault (h : s.checkWord (effectiveAddress s ra o) = .error bad) :
    loadWord ra o s = .fault (.unpopulatedAccess (s.pc - 2#16) bad) := by
  rw [loadWord, (readWord_error_iff s _ bad).2 h, accessing_error]

theorem storeWord_fault (h : s.checkWord (effectiveAddress s ra o) = .error bad) :
    storeWord ra o s = .fault (.unpopulatedAccess (s.pc - 2#16) bad) := by
  rw [storeWord, (writeWord_error_iff s _ bad _).2 h, accessing_error]

theorem jumpAndPush_fault {g : Target} (h : s.checkWord s.sp = .error bad) :
    jumpAndPush g s = .fault (.unpopulatedAccess (s.pc - 2#16) bad) := by
  rw [jumpAndPush, (writeWord_error_iff s _ bad _).2 h, accessing_error]

theorem loadByte_fault (h : s.populated (effectiveAddress s ra o) = false) :
    loadByte ra o s = .fault (.unpopulatedAccess (s.pc - 2#16) (effectiveAddress s ra o)) := by
  rw [loadByte, (readByte_error_iff s _ _).2 ⟨h, rfl⟩, accessing_error]

theorem storeByte_fault (h : s.populated (effectiveAddress s ra o) = false) :
    storeByte ra o s = .fault (.unpopulatedAccess (s.pc - 2#16) (effectiveAddress s ra o)) := by
  rw [storeByte, (writeByte_error_iff s _ _ _).2 ⟨h, rfl⟩, accessing_error]

end

/-- Settles O9: every form goes through the one check of its word or byte, and stops where the check does. -/
theorem unpopulatedDataAccessFaults : Obligations.UnpopulatedDataAccessFaults := by
  unfold Obligations.UnpopulatedDataAccessFaults
  intro s ra rb k w
  refine ⟨fun i ea form => ?word, fun i ea form out => ?byte⟩
  case word =>
    have fault {bad : Word} (h : s.checkWord ea = .error bad) :
        exec i s = .fault (.unpopulatedAccess (s.pc - 2) bad) := by
      simp only [List.mem_cons, List.not_mem_nil, or_false, Prod.mk.injEq] at form
      obtain ⟨rfl, rfl⟩ | ⟨rfl, rfl⟩ | ⟨rfl, rfl⟩ | ⟨rfl, rfl⟩ | ⟨rfl, rfl⟩ | ⟨rfl, rfl⟩ | ⟨rfl, rfl⟩ | ⟨rfl, rfl⟩ |
        ⟨rfl, rfl⟩ := form
      exacts [loadWord_fault h, loadWord_fault h, loadWord_fault h, storeWord_fault h, storeWord_fault h,
        storeWord_fault h, jumpAndPush_fault h, jumpAndPush_fault h, jumpAndPush_fault h]
    exact ⟨fun out => fault (checkWord_error_low out), fun inside out => fault (checkWord_error_high inside out)⟩
  case byte =>
    have outside := populated_eq_false out
    simp only [List.mem_cons, List.not_mem_nil, or_false, Prod.mk.injEq] at form
    obtain ⟨rfl, rfl⟩ | ⟨rfl, rfl⟩ | ⟨rfl, rfl⟩ | ⟨rfl, rfl⟩ | ⟨rfl, rfl⟩ | ⟨rfl, rfl⟩ := form
    exacts [loadByte_fault outside, loadByte_fault outside, loadByte_fault outside, storeByte_fault outside,
      storeByte_fault outside, storeByte_fault outside]

/-! ### Every address populated -/

theorem populated_of_full {s : State} (full : s.params.memSize = 65536) (addr : Word) : s.populated addr = true := by
  have below := addr.isLt
  simp only [State.populated, full, decide_eq_true_eq]
  omega

/-- Rules R62, R260: only an access can stop an instruction, and with every address populated none does. -/
theorem exec_completes_of_full {s : State} (full : s.params.memSize = 65536) (i : Instr) : ∃ t, exec i s = .next t := by
  have byte (addr : Word) : s.populated addr = true := populated_of_full full addr
  have word (addr : Word) : s.populated addr = true ∧ s.populated (addr + 1#16) = true := ⟨byte _, byte _⟩
  cases i with
  | ldaI8 | ldaI16 | ldaRR => exact ⟨_, (loadWord_next_iff _ _ s _).2 ⟨word _, rfl⟩⟩
  | ldabI8 | ldabI16 | ldabRR => exact ⟨_, (loadByte_next_iff _ _ s _).2 ⟨byte _, rfl⟩⟩
  | staI8 | staI16 | staRR => exact ⟨_, (storeWord_next_iff _ _ s _).2 ⟨word _, rfl⟩⟩
  | stabI8 | stabI16 | stabRR => exact ⟨_, (storeByte_next_iff _ _ s _).2 ⟨byte _, rfl⟩⟩
  | japI8 | japI16 | japRR => exact ⟨_, (jumpAndPush_next_iff _ s _).2 ⟨word _, rfl⟩⟩
  | _ => exact ⟨_, rfl⟩

theorem readWord_of_full {s : State} (full : s.params.memSize = 65536) (addr : Word) :
    s.readWord addr = .ok (joinBytes s.params.byteOrder (s.byteAt addr) (s.byteAt (addr + 1#16))) :=
  (readWord_ok_iff s addr _).2 ⟨⟨populated_of_full full _, populated_of_full full _⟩, rfl⟩

/-- Rules R86, R87: every major opcode but 01011 is assigned. -/
theorem decodeWords_of_assigned {ir : Word} (assigned : opField ir ≠ 0b01011) (imm : Word) :
    ∃ i, decodeWords ir imm = .ok i := by
  unfold decodeWords
  split
  case h_32 =>
    have below := (opField ir).isLt
    have unassigned : (opField ir).toNat = 11 := by grind
    exact absurd (BitVec.eq_of_toNat_eq unassigned) assigned
  all_goals exact ⟨_, rfl⟩

/-- Settles O10: with every address populated, neither the fetch of an assigned word nor an instruction can stop. -/
theorem fullMemoryAlwaysCompletes : Obligations.FullMemoryAlwaysCompletes := by
  unfold Obligations.FullMemoryAlwaysCompletes
  refine fun s full => ⟨exec_completes_of_full full, fun even assigned => ?_⟩
  have wordRead := readWord_of_full full s.pc
  have immRead (ir : Word) : ∃ imm, fetchImmediate s ir = .ok imm := by
    unfold fetchImmediate
    split
    case isTrue => exact ⟨_, readWord_of_full full _⟩
    case isFalse => exact ⟨_, rfl⟩
  obtain ⟨imm, immRead⟩ := immRead (joinBytes s.params.byteOrder (s.byteAt s.pc) (s.byteAt (s.pc + 1#16)))
  obtain ⟨i, decoded⟩ := decodeWords_of_assigned assigned imm
  rw [step_of_fetch_instr s s.advance i ((fetch_instr_iff s _ i).2 ⟨even, _, imm, wordRead, immRead, decoded, rfl⟩)]
  exact exec_completes_of_full (s := s.advance) full i

end Sys2Proof.Machine
end

section
/-! SUPPORT. The decoder undoes the encoder on the instructions of one word, and so a word that a program stores over its
next instruction is the one it runs (rules R26, R67, R193). -/

namespace Sys2Proof.Machine

/-! ### The fields of an encoded word -/

section
variable (r : Reg)

@[simp] theorem extractLsb'_raBits_op : (raBits r).extractLsb' 11 5 = 0#5 := by cases r <;> rfl
@[simp] theorem extractLsb'_raBits_ra : (raBits r).extractLsb' 9 2 = r.id := by cases r <;> rfl
@[simp] theorem extractLsb'_rbBits_rb : (rbBits r).extractLsb' 5 2 = r.id := by cases r <;> rfl

/-- The Ra field reaches no bit below 9. -/
@[simp] theorem getElem_raBits_below {n : Nat} (h : n < 9) : (raBits r)[n] = false := by
  rw [← BitVec.getLsbD_eq_getElem, getLsbD_raBits, decide_eq_false (by omega), Bool.false_and]

/-- The Rb field lies in bits 6:5. -/
@[simp] theorem getElem_rbBits_outside {n : Nat} (inside : n < 16) (h : n < 5 ∨ 7 ≤ n) : (rbBits r)[n] = false := by
  rw [← BitVec.getLsbD_eq_getElem, getLsbD_rbBits]
  obtain below | above := h
  · rw [decide_eq_false (by omega), Bool.false_and]
  · rw [BitVec.getLsbD_of_ge r.id _ (by omega), Bool.and_false]

@[simp] theorem extractLsb'_raBits_below (start len : Nat) (h : start + len ≤ 9) :
    (raBits r).extractLsb' start len = 0#len := by
  apply BitVec.eq_of_getLsbD_eq
  intro n _
  simp [getLsbD_raBits, show ¬ 9 ≤ start + n by omega]

@[simp] theorem extractLsb'_rbBits_above (start len : Nat) (h : 7 ≤ start) :
    (rbBits r).extractLsb' start len = 0#len := by
  apply BitVec.eq_of_getLsbD_eq
  intro n _
  simp [getLsbD_rbBits, BitVec.getLsbD_of_ge r.id (start + n - 5) (by omega)]

end

/-- An immediate reaches no field above it. -/
theorem extractLsb'_imm_of_le {w : Nat} (imm : BitVec w) (start len : Nat) (h : w ≤ start) :
    (imm.setWidth 16 : Word).extractLsb' start len = 0#len := by
  apply BitVec.eq_of_getLsbD_eq
  intro n _
  rw [BitVec.getLsbD_extractLsb', getLsbD_imm_of_le imm _ (by omega)]
  simp

/-- An immediate is the field it is placed in. -/
theorem extractLsb'_imm {w : Nat} (imm : BitVec w) (h : w ≤ 16) : (imm.setWidth 16 : Word).extractLsb' 0 w = imm := by
  apply BitVec.eq_of_getLsbD_eq
  intro n below
  simp [below, show n < 16 by omega]

/-- Rules R86, R100: an encoded word of one word's length decodes to its own instruction, whatever word comes after it. -/
theorem decodeWords_firstWord {i : Instr} (short : i.size = 2) (imm : Word) : decodeWords i.firstWord imm = .ok i := by
  cases i with
  | addI16 | subI16 | cmpI16 | sgxI16 | andI16 | orI16 | xorI16 | invI16 | ldaI16 | ldabI16 | staI16 | stabI16 | jncI16
  | jnsI16 | jneI16 | jeqI16 | jloI16 | jhsI16 | jvcI16 | jvsI16 | jgeI16 | jltI16 | jhiI16 | jlsI16 | jgtI16 | jleI16
  | jmpI16 | japI16 => cases short
  | sllSHI | sllSHR | srlSHI | srlSHR | sraSHI | sraSHR | srrSHI | srrSHR =>
    simp [decodeWords, Instr.firstWord, decodeShift, opField, modeBit, raField, rbField, imm4Field,
      BitVec.extractLsb'_or, extractLsb'_imm_of_le, extractLsb'_imm]
  | _ =>
    simp [decodeWords, Instr.firstWord, selectForm, opField, modeBit, selectBit, raField, rbField, imm8Field,
      BitVec.extractLsb'_or, extractLsb'_imm_of_le, extractLsb'_imm]

theorem isLong_firstWord {i : Instr} (short : i.size = 2) : isLong i.firstWord = false := by
  by_contra long
  have size := size_of_isLong (Bool.eq_true_of_not_eq_false long) (decodeWords_firstWord short 0)
  omega

/-! ### An instruction at `pc` -/

/-- An encoded instruction of one word, in memory at an even `pc`, is the one the step executes. -/
theorem step_of_firstWord {s : State} {i : Instr} (even : s.pc.getLsbD 0 = false) (short : i.size = 2)
    (word : s.readWord s.pc = .ok i.firstWord) : step s = exec i s.advance := by
  refine step_of_fetch_instr s _ i ((fetch_instr_iff s _ i).2 ⟨even, _, 0, word, ?_, decodeWords_firstWord short 0, rfl⟩)
  rw [fetchImmediate, isLong_firstWord short]
  rfl

/-- Settles O25: the store leaves `pc` where it put the word, and the fetch reads it there. -/
theorem storeSeenByNextFetch : Obligations.StoreSeenByNextFetch := by
  unfold Obligations.StoreSeenByNextFetch
  intro s t ra k i canonical even here short held stored
  have address : effectiveAddress s ra (.imm8 k) = s.pc := here
  obtain ⟨inside, rfl⟩ := (storeWord_next_iff ra (.imm8 k) s t).1 stored
  rw [address] at inside ⊢
  have word := readWord_putWord s s.pc s.a canonical inside
  rw [held] at word ⊢
  refine step_of_firstWord ?_ short ?_
  · rwa [afterOperand, putBytes_pc]
  · rwa [afterOperand, putBytes_pc]

end Sys2Proof.Machine
end

section
/-! SUPPORT. The decoder and the encoder undo each other, both ways and up to don't-care bits (rules R80 to R88, R91,
R100). A row of the opcode map is told by its first word's parts: the major opcode, the bits that choose the form, and
the fields of the operands. -/

namespace Sys2Proof.Machine

/-! ### An encoded instruction decodes to itself -/

/-- Whatever stands in the don't-care bits of an encoded word (rule R85), it decodes to its own instruction, when the
word after it is the instruction's second word, if it has one (rules R86, R100). -/
theorem decodeWords_firstWord_or (i : Instr) (other after : Word) :
    decodeWords (i.firstWord ||| other &&& i.dontCare) (i.secondWord.getD after) = .ok i := by
  cases i with
  | sllSHI | sllSHR | srlSHI | srlSHR | sraSHI | sraSHR | srrSHI | srrSHR =>
    simp [decodeWords, Instr.firstWord, Instr.dontCare, Instr.format, Instr.ignoresRa, decodeShift, opField, modeBit,
      raField, rbField, imm4Field, BitVec.extractLsb'_or, BitVec.extractLsb'_and, extractLsb'_imm_of_le, extractLsb'_imm]
  | _ =>
    simp [decodeWords, Instr.firstWord, Instr.secondWord, Instr.dontCare, Instr.format, Instr.ignoresRa, selectForm,
      opField, modeBit, selectBit, raField, rbField, imm8Field, BitVec.extractLsb'_or, BitVec.extractLsb'_and,
      extractLsb'_imm_of_le, extractLsb'_imm]

/-! ### The parts of a word -/

section
variable (ir : Word)

/-- A field of a word, put back where it was read, is the word with all other bits cleared. -/
theorem placed_extractLsb' (start len : Nat) :
    (ir.extractLsb' start len).setWidth 16 <<< start = ir &&& (BitVec.allOnes len).setWidth 16 <<< start := by
  apply BitVec.eq_of_getLsbD_eq
  intro n inside
  by_cases below : n < start
  · simp [below]
  · simp [inside, below, show start + (n - start) = n by omega, Bool.and_comm]

theorem majorBits_of_opField {ir : Word} {major : Nat} (op : (opField ir).toNat = major) :
    BitVec.ofNat 16 major <<< 11 = ir &&& 0xF800 := by
  rw [← op, BitVec.ofNat_toNat]
  exact placed_extractLsb' ir 11 5

theorem raBits_raField : raBits (raField ir) = ir &&& 0x0600 := by
  rw [raBits, raField, id_ofId]
  exact placed_extractLsb' ir 9 2

theorem rbBits_rbField : rbBits (rbField ir) = ir &&& 0x0060 := by
  rw [rbBits, rbField, id_ofId]
  exact placed_extractLsb' ir 5 2

theorem setWidth_imm8Field : (imm8Field ir).setWidth 16 = ir &&& 0x00FF :=
  (BitVec.shiftLeft_zero _).symm.trans (placed_extractLsb' ir 0 8)

theorem setWidth_imm4Field : (imm4Field ir).setWidth 16 = ir &&& 0x000F :=
  (BitVec.shiftLeft_zero _).symm.trans (placed_extractLsb' ir 0 4)

end

/-! ### The choice of a form, and the bits it was read from -/

/-- What holds of each form when its bits select it holds of the form selected (rule R83). -/
theorem selectForm_cases {ir : Word} {P : Instr → Prop} {i8 i16 rr : Instr} (hi8 : ir.getLsbD 8 = false → P i8)
    (hi16 : ir.getLsbD 8 = true → ir.getLsbD 7 = false → P i16)
    (hrr : ir.getLsbD 8 = true → ir.getLsbD 7 = true → P rr) : P (selectForm ir i8 i16 rr) := by
  cases h8 : ir.getLsbD 8 with
  | false => rw [selectForm_i8 _ _ _ h8]; exact hi8 h8
  | true =>
    cases h7 : ir.getLsbD 7 with
    | false => rw [selectForm_i16 _ _ _ h8 h7]; exact hi16 h8 h7
    | true => rw [selectForm_rr _ _ _ h8 h7]; exact hrr h8 h7

section
variable {ir : Word}

/-- Two parts of a word together are the word under both their masks. -/
theorem parts_eq_and {m n v w : Word} (hv : v = ir &&& m) (hw : w = ir &&& n) : v ||| w = ir &&& (m ||| n) := by
  rw [hv, hw, BitVec.and_or_distrib_left]

/-- A bit that is known, in its place. -/
theorem bit_eq_and {n : Nat} {b : Bool} (bit : ir.getLsbD n = b) :
    (bif b then BitVec.twoPow 16 n else 0) = ir &&& BitVec.twoPow 16 n := by
  rw [BitVec.and_twoPow, bit]
  cases b <;> rfl

variable {major : Nat} (op : (opField ir).toNat = major)
include op

theorem opcode_i8 (h8 : ir.getLsbD 8 = false) : BitVec.ofNat 16 major <<< 11 ||| 0 = ir &&& 0xF900 :=
  parts_eq_and (majorBits_of_opField op) (bit_eq_and h8)

theorem opcode_i16 (h8 : ir.getLsbD 8 = true) (h7 : ir.getLsbD 7 = false) :
    BitVec.ofNat 16 major <<< 11 ||| 0x0100 = ir &&& 0xF980 :=
  parts_eq_and (majorBits_of_opField op) (parts_eq_and (bit_eq_and h8) (bit_eq_and h7))

theorem opcode_rr (h8 : ir.getLsbD 8 = true) (h7 : ir.getLsbD 7 = true) :
    BitVec.ofNat 16 major <<< 11 ||| 0x0180 = ir &&& 0xF980 :=
  parts_eq_and (majorBits_of_opField op) (parts_eq_and (bit_eq_and h8) (bit_eq_and h7))

end

/-! ### The words of a decoded instruction -/

/-- The words `ir` and `imm` are those of `i` but for its don't-care bits (rules R85, R100). -/
def HasWords (ir imm : Word) (i : Instr) : Prop :=
  i.firstWord = ir &&& ~~~ i.dontCare ∧ i.secondWord = if i.size = 4 then some imm else none

/-- The parts of an encoded word cover all its bits but the don't-care bits. -/
theorem HasWords.of_parts {ir imm m : Word} {i : Instr} (unread : Word) (first : i.firstWord = ir &&& m)
    (dontCare : i.dontCare = unread) (cover : m = ~~~ unread)
    (second : i.secondWord = if i.size = 4 then some imm else none) : HasWords ir imm i :=
  ⟨by rw [first, dontCare, cover], second⟩

theorem hasWords_decodeShift {ir : Word} (op : (opField ir).toNat = 8) (imm : Word) :
    HasWords ir imm (decodeShift ir) := by
  have ra := raBits_raField ir
  have rb := rbBits_rbField ir
  have imm4 := setWidth_imm4Field ir
  have major := majorBits_of_opField op
  unfold decodeShift
  split
  case h_1 h8 h7 h4 | h_3 h8 h7 h4 | h_5 h8 h7 h4 | h_7 h8 h7 h4 =>
    have code := parts_eq_and (bit_eq_and h8) (parts_eq_and (bit_eq_and h7) (bit_eq_and h4))
    exact .of_parts 0x0060 (parts_eq_and (parts_eq_and (parts_eq_and major code) ra) imm4) rfl (by decide) rfl
  case h_2 h8 h7 h4 | h_4 h8 h7 h4 | h_6 h8 h7 h4 | h_8 h8 h7 h4 =>
    have code := parts_eq_and (bit_eq_and h8) (parts_eq_and (bit_eq_and h7) (bit_eq_and h4))
    exact .of_parts 0x000F (parts_eq_and (parts_eq_and (parts_eq_and major code) ra) rb) rfl (by decide) rfl

theorem hasWords_of_decodeWords {ir imm : Word} {i : Instr} (decoded : decodeWords ir imm = .ok i) :
    HasWords ir imm i := by
  have ra := raBits_raField ir
  have rb := rbBits_rbField ir
  have imm8 := setWidth_imm8Field ir
  unfold decodeWords at decoded
  split at decoded
  case h_32 => cases decoded
  all_goals cases decoded
  case h_9 op => exact hasWords_decodeShift op imm
  case h_10 op => exact .of_parts 0x01FF (parts_eq_and (majorBits_of_opField op) ra) rfl (by decide) rfl
  case h_11 op => exact .of_parts 0x07FF (majorBits_of_opField op) rfl (by decide) rfl
  case h_1 op | h_2 op | h_3 op | h_5 op | h_6 op | h_7 op | h_12 op | h_13 op | h_14 op | h_15 op =>
    exact selectForm_cases
      (fun h8 => .of_parts 0x0000 (parts_eq_and (parts_eq_and (opcode_i8 op h8) ra) imm8) rfl (by decide) rfl)
      (fun h8 h7 => .of_parts 0x007F (parts_eq_and (opcode_i16 op h8 h7) ra) rfl (by decide) rfl)
      (fun h8 h7 => .of_parts 0x001F (parts_eq_and (parts_eq_and (opcode_rr op h8 h7) ra) rb) rfl (by decide) rfl)
  case h_4 op =>
    exact selectForm_cases
      (fun h8 => .of_parts (0x0000 ||| 0x0600) (parts_eq_and (opcode_i8 op h8) imm8) rfl (by decide) rfl)
      (fun h8 h7 => .of_parts (0x007F ||| 0x0600) (opcode_i16 op h8 h7) rfl (by decide) rfl)
      (fun h8 h7 => .of_parts 0x001F (parts_eq_and (parts_eq_and (opcode_rr op h8 h7) ra) rb) rfl (by decide) rfl)
  all_goals
    next op =>
    exact selectForm_cases
      (fun h8 => .of_parts (0x0000 ||| 0x0600) (parts_eq_and (opcode_i8 op h8) imm8) rfl (by decide) rfl)
      (fun h8 h7 => .of_parts (0x007F ||| 0x0600) (opcode_i16 op h8 h7) rfl (by decide) rfl)
      (fun h8 h7 => .of_parts (0x001F ||| 0x0600) (parts_eq_and (opcode_rr op h8 h7) rb) rfl (by decide) rfl)

/-- Settles O2: the encoder's first word and second word, read off part by part. -/
theorem encodeOfDecode : Obligations.EncodeOfDecode := by
  unfold Obligations.EncodeOfDecode
  exact fun _ _ _ decoded => hasWords_of_decodeWords decoded

/-! ### Words that differ in don't-care bits only -/

theorem and_not_or_and (w mask : Word) : w &&& ~~~ mask ||| w &&& mask = w := by
  rw [← BitVec.and_or_distrib_left, BitVec.or_comm, BitVec.or_not_self, BitVec.and_allOnes]

theorem xor_and_and_not (w change mask : Word) : (w ^^^ (change &&& mask)) &&& ~~~ mask = w &&& ~~~ mask := by
  apply BitVec.eq_of_getLsbD_eq
  intro n _
  cases bit : mask.getLsbD n <;> simp_all

/-- A word decodes to the instruction whose words it holds but for don't-care bits, and to no other. -/
theorem decodeWords_iff_hasWords (ir imm : Word) (i : Instr) : decodeWords ir imm = .ok i ↔ HasWords ir imm i := by
  refine ⟨hasWords_of_decodeWords, ?_⟩
  rintro ⟨first, second⟩
  have parts : i.firstWord ||| ir &&& i.dontCare = ir := by
    rw [first, and_not_or_and]
  have following : i.secondWord.getD imm = imm := by
    rw [second]
    split <;> rfl
  have decoded := decodeWords_firstWord_or i ir imm
  rwa [parts, following] at decoded

/-- Settles O3: flipping don't-care bits keeps all other bits, and these tell the instruction. -/
theorem dontCareBitsIgnored : Obligations.DontCareBitsIgnored := by
  unfold Obligations.DontCareBitsIgnored
  intro ir imm change i decoded
  obtain ⟨first, second⟩ := (decodeWords_iff_hasWords ir imm i).1 decoded
  constructor
  · exact (decodeWords_iff_hasWords _ imm i).2 ⟨first.trans (xor_and_and_not ir change _).symm, second⟩
  · rw [first, BitVec.and_assoc, BitVec.and_comm (~~~ _), BitVec.and_not_self]
    exact BitVec.and_zero

/-! ### Which words are instructions, and how long they are -/

/-- Settles O4: the map has one row without an instruction. -/
theorem oneMajorOpcodeUnassigned : Obligations.OneMajorOpcodeUnassigned := by
  unfold Obligations.OneMajorOpcodeUnassigned
  refine fun ir imm => ⟨?_, fun assigned => decodeWords_of_assigned assigned imm⟩
  rintro ⟨i, decoded⟩ unassigned
  rw [decodeWords_of_unassigned ir imm unassigned] at decoded
  cases decoded

/-- A word that announces no immediate word selects a form without one (rules R81, R83). -/
theorem size_of_not_isLong {ir imm : Word} {i : Instr} (short : ¬ isLong ir = true)
    (decoded : decodeWords ir imm = .ok i) : i.size = 2 := by
  unfold decodeWords at decoded
  split at decoded
  case h_32 => cases decoded
  all_goals cases decoded
  case h_9 => unfold decodeShift; split <;> rfl
  case h_10 | h_11 => rfl
  all_goals
    next op =>
    exact selectForm_cases (P := fun i => i.size = 2) (fun _ => rfl)
      (fun h8 h7 => absurd ((isLong_iff ir).2 ⟨h8, h7, by simp [hasI16Form, op]⟩) short) (fun _ _ => rfl)

/-- The first word alone tells the length of its instruction (rule R81). -/
theorem size_of_decodeWords {ir imm : Word} {i : Instr} (decoded : decodeWords ir imm = .ok i) :
    i.size = if isLong ir then 4 else 2 := by
  split
  case isTrue long => exact size_of_isLong long decoded
  case isFalse short => exact size_of_not_isLong short decoded

/-- The major opcodes with an `I16` form, listed as rule R81 lists them. -/
theorem hasI16Form_iff (op : BitVec 5) : hasI16Form op = true ↔
    op ∈ [0b00000, 0b00001, 0b00010, 0b00011, 0b00100, 0b00101, 0b00110, 0b00111, 0b01100, 0b01101, 0b01110, 0b01111] ∨
      op.getLsbD 4 = true := by
  revert op
  decide

/-- Settles O5: the length is told by `isLong`, which tests the bits the rule names. -/
theorem lengthFromFirstWord : Obligations.LengthFromFirstWord := by
  unfold Obligations.LengthFromFirstWord
  intro ir imm i decoded
  have size := size_of_decodeWords decoded
  have top : (opField ir).getLsbD 4 = ir.getLsbD 15 := by simp [opField]
  have long := isLong_iff ir
  rw [hasI16Form_iff, top] at long
  rw [← opField, ← long, size]
  split <;> simp_all

/-! ### Bytes -/

/-! The first word says how many bytes the decoder takes (rules R80, R81), in either byte order. -/

section
variable {bo : ByteOrder} {ir imm : Word} {i : Instr} (rest : List Byte)

theorem decode_short (short : isLong ir = false) (decoded : decodeWords ir 0 = .ok i) :
    decode bo (wordBytes bo ir ++ rest) = .ok (i, rest) := by
  simp only [wordBytes, decode, List.cons_append, List.nil_append, joinBytes_splitWord, short, decoded]
  rfl

theorem decode_long (long : isLong ir = true) (decoded : decodeWords ir imm = .ok i) :
    decode bo (wordBytes bo ir ++ wordBytes bo imm ++ rest) = .ok (i, rest) := by
  simp only [wordBytes, decode, List.cons_append, List.nil_append, joinBytes_splitWord, long, decoded]
  rfl

end

theorem decodeWords_firstWord_getD (i : Instr) (after : Word) :
    decodeWords i.firstWord (i.secondWord.getD after) = .ok i := by
  simpa using decodeWords_firstWord_or i 0 after

/-- The first word tells whether there is a second one (rules R80, R81). -/
theorem isSome_secondWord (i : Instr) : i.secondWord.isSome = isLong i.firstWord := by
  have decoded := decodeWords_firstWord_getD i 0
  rw [(hasWords_of_decodeWords decoded).2, size_of_decodeWords decoded]
  cases isLong i.firstWord <;> rfl

/-- Settles O1: the first word tells whether the second one is there, and the words decode to the instruction. -/
theorem decodeOfEncode : Obligations.DecodeOfEncode := by
  unfold Obligations.DecodeOfEncode
  intro bo i rest
  have decoded := decodeWords_firstWord_getD i 0
  have length := (isSome_secondWord i).symm
  rw [encode]
  cases second : i.secondWord with
  | none =>
    rw [second] at decoded length
    exact decode_short rest length decoded
  | some imm =>
    rw [second] at decoded length
    exact decode_long rest length decoded

/-- Settles O6: the decoder, run on each of the seven words. -/
theorem exampleWordsDecode : Obligations.ExampleWordsDecode :=
  ⟨rfl, rfl, rfl, rfl, rfl, rfl, rfl⟩

end Sys2Proof.Machine
end

section
/-! SUPPORT. The assembler's choices of a form make no difference to what an instruction does: a jump reaches its target
in either form (rule R97), and a value below 256 is the same operand in either form (rule R96). -/

namespace Sys2Proof.Machine

/-! ### The relative form (rule R97) -/

/-- The distance from the instruction after a jump to its target, both taken as unsigned addresses. -/
def jumpDistance (addr target : Word) : Int := (target.toNat : Int) - ((addr + 2).toNat : Int)

/-- Rule R97: the target is in reach of the relative form. -/
def NearTarget (addr target : Word) : Prop := -128 ≤ jumpDistance addr target ∧ jumpDistance addr target ≤ 127

theorem asmTarget_near {addr target : Word} (near : NearTarget addr target) :
    asmTarget addr target = .relative (BitVec.ofInt 8 (jumpDistance addr target)) :=
  if_pos near

theorem asmTarget_far {addr target : Word} (far : ¬ NearTarget addr target) :
    asmTarget addr target = .absolute target :=
  if_neg far

theorem toInt_ofInt_of_near {d : Int} (near : -128 ≤ d ∧ d ≤ 127) : (BitVec.ofInt 8 d).toInt = d :=
  BitVec.toInt_ofInt_eq_self (by decide) (by omega) (by omega)

/-- The offset leads from the instruction after the jump to the target (rule R153). -/
theorem relative_jumpDistance {addr target : Word} (near : NearTarget addr target) :
    addr + 2 + sext16 (BitVec.ofInt 8 (jumpDistance addr target)) = target := by
  rw [← ofInt_relative, toInt_ofInt_of_near near, jumpDistance, add_sub_cancel, BitVec.ofInt_natCast,
    BitVec.ofNat_toNat, BitVec.setWidth_eq]

theorem exec_asmJmp (g : Target) (s : State) : exec (asmJmp g) s = .next { s with pc := targetAddress s g } := by
  cases g <;> exact jump_next .mp _ s

theorem targetAddress_asmTarget {s : State} {addr : Word} (target : Word) (here : s.pc = addr + 2) :
    targetAddress s (asmTarget addr target) = target := by
  by_cases near : NearTarget addr target
  case pos =>
    rw [asmTarget_near near, targetAddress, here]
    exact relative_jumpDistance near
  case neg =>
    rw [asmTarget_far near]
    rfl

theorem toInt_of_asmTarget {addr target : Word} {k : Byte} (chosen : asmTarget addr target = .relative k) :
    k.toInt = jumpDistance addr target := by
  by_cases near : NearTarget addr target
  case pos =>
    rw [asmTarget_near near] at chosen
    rw [← Target.relative.inj chosen]
    exact toInt_ofInt_of_near near
  case neg =>
    rw [asmTarget_far near] at chosen
    cases chosen

theorem asmTarget_eq_absolute_iff (addr target : Word) :
    asmTarget addr target = .absolute target ↔ ¬ NearTarget addr target := by
  refine ⟨fun chosen near => ?_, asmTarget_far⟩
  rw [asmTarget_near near] at chosen
  cases chosen

/-- Settles O54: a jump goes to its target's address, and in either form that is the target it was assembled for. -/
theorem assembledJumpReachesTarget : Obligations.AssembledJumpReachesTarget := by
  unfold Obligations.AssembledJumpReachesTarget
  intro s addr target here
  refine ⟨?_, fun k => toInt_of_asmTarget, asmTarget_eq_absolute_iff addr target⟩
  rw [exec_asmJmp, targetAddress_asmTarget target here]

/-! ### The two immediate forms (rule R96) -/

theorem eq_zext16_of_asmImmediate {v : Word} {k : Byte} (h : asmImmediate v = .imm8 k) : v = zext16 k := by
  unfold asmImmediate at h
  split at h
  case isTrue small =>
    cases h
    apply BitVec.eq_of_toNat_eq
    rw [zext16_toNat, BitVec.extractLsb'_toNat]
    omega
  case isFalse => cases h

/-- Both outcomes complete, with the same state but for `pc`, which is 2 more in the second. -/
def AgreeButForLength (short long : Outcome) : Prop := ∃ t, short = .next t ∧ long = .next { t with pc := t.pc + 2 }

section
variable (s : State) (k : Byte)

theorem sumToA_forms_agree (sum : Word → Word → Sum) (ra : Reg) :
    AgreeButForLength (sumToA sum ra (.imm8 k) s) (sumToA sum ra (.imm16 (zext16 k)) s) :=
  ⟨_, sumToA_next .., rfl⟩

theorem sumToFlags_forms_agree (sum : Word → Word → Sum) (ra : Reg) :
    AgreeButForLength (sumToFlags sum ra (.imm8 k) s) (sumToFlags sum ra (.imm16 (zext16 k)) s) :=
  ⟨_, sumToFlags_next .., rfl⟩

theorem logicToA_forms_agree (insn : CvInsn) (f : Word → Word → Word) (ra : Reg) :
    AgreeButForLength (logicToA insn f ra (.imm8 k) s) (logicToA insn f ra (.imm16 (zext16 k)) s) :=
  ⟨_, logicToA_next .., rfl⟩

theorem unaryToA_forms_agree (insn : CvInsn) (f : Word → Word) :
    AgreeButForLength (unaryToA insn f (.imm8 k) s) (unaryToA insn f (.imm16 (zext16 k)) s) :=
  ⟨_, unaryToA_next .., rfl⟩

end

/-- Settles O55: an instruction sees the immediate only as its zero-extended value. -/
theorem immediateFormsAgree : Obligations.ImmediateFormsAgree := by
  unfold Obligations.ImmediateFormsAgree
  intro s ra v k chosen i j pair
  obtain rfl := eq_zext16_of_asmImmediate chosen
  simp only [List.mem_cons, Prod.mk.injEq, List.not_mem_nil, or_false] at pair
  obtain ⟨rfl, rfl⟩ | ⟨rfl, rfl⟩ | ⟨rfl, rfl⟩ | ⟨rfl, rfl⟩ | ⟨rfl, rfl⟩ | ⟨rfl, rfl⟩ | ⟨rfl, rfl⟩ | ⟨rfl, rfl⟩ := pair
  · exact sumToA_forms_agree s k add16 ra
  · exact sumToA_forms_agree s k sub16 ra
  · exact sumToFlags_forms_agree s k sub16 ra
  · exact logicToA_forms_agree s k .and _ ra
  · exact logicToA_forms_agree s k .or _ ra
  · exact logicToA_forms_agree s k .xor _ ra
  · exact unaryToA_forms_agree s k .inv not16
  · exact unaryToA_forms_agree s k .sgx signExtendByte

end Sys2Proof.Machine
end

section
/-! SUPPORT. The arithmetic and logic instructions (rules R120 to R129). An instruction with an immediate byte, an
immediate word or a register operand is one scheme over the operand, so each instruction is settled once for all its
forms. -/

namespace Sys2Proof.Machine

/-! ### Updates that leave everything but A, the flags and `pc` -/

section
variable {s u : State}

theorem onlyAccumulator_afterOperand (s : State) (o : Operand) : OnlyAccumulator s (afterOperand s o) :=
  ⟨⟨afterOperand_x s o, afterOperand_y s o, afterOperand_sp s o⟩, byteAt_afterOperand s o, afterOperand_params s o⟩

theorem OnlyAccumulator.setReg_a (only : OnlyAccumulator s u) (w : Word) : OnlyAccumulator s (u.setReg .a w) := only

theorem OnlyAccumulator.setSumFlags (only : OnlyAccumulator s u) (q : Sum) : OnlyAccumulator s (u.setSumFlags q) := only

theorem OnlyAccumulator.setResultFlags (only : OnlyAccumulator s u) (insn : CvInsn) (w : Word) (l : List Word) :
    OnlyAccumulator s (u.setResultFlags insn w l) := only

end

/-! ### What each scheme leaves of the state, and its C and V -/

section
variable (s : State) (o : Operand) (w : Word)

theorem onlyAccumulator_sumToA (q : Sum) : OnlyAccumulator s (((afterOperand s o).setReg .a w).setSumFlags q) :=
  ((onlyAccumulator_afterOperand s o).setReg_a w).setSumFlags q

theorem onlyAccumulator_resultToA (insn : CvInsn) (l : List Word) :
    OnlyAccumulator s (((afterOperand s o).setReg .a w).setResultFlags insn w l) :=
  ((onlyAccumulator_afterOperand s o).setReg_a w).setResultFlags insn w l

theorem cvOpen_resultToA (insn : CvInsn) (l : List Word) :
    CVOpen s insn w l (((afterOperand s o).setReg .a w).setResultFlags insn w l) :=
  cvOpen_setResultFlags s _ insn w l (afterOperand_params s o) (afterOperand_draws s o)

end

theorem cvOfAdd_add16 (a b : Word) :
    CVOfAdd a b (add16 a b).r (flagsOf (add16 a b).r (add16 a b).c (add16 a b).v) :=
  ⟨add16_c a b, add16_v a b⟩

theorem cvOfSub_sub16 (a b : Word) : CVOfSub a b (flagsOf (sub16 a b).r (sub16 a b).c (sub16 a b).v) :=
  ⟨sub16_c a b, sub16_v a b⟩

/-- N and Z of the flags after a subtraction are those of the difference (rule R32). -/
theorem nzFrom_sub16 (a b : Word) : NZFrom (a - b) (flagsOf (sub16 a b).r (sub16 a b).c (sub16 a b).v) :=
  sub16_r a b ▸ nzFrom_flagsOf _ _ _

/-! ### Instructions with two operands -/

/-- The instruction of a major opcode that runs one scheme over Ra and its operand: its row of the opcode map (rule
R86), and its three forms as the scheme on the three kinds of operand (rule R83). -/
structure RunsScheme (major : BitVec 5) (i8 : Reg → Byte → Instr) (i16 : Reg → Word → Instr) (rr : Reg → Reg → Instr)
    (scheme : Reg → Operand → State → Outcome) : Prop where
  row : ∀ ir imm : Word, opField ir = major → decodeWords ir imm =
    .ok (selectForm ir (i8 (raField ir) (imm8Field ir)) (i16 (raField ir) imm) (rr (raField ir) (rbField ir)))
  run8 : ∀ ra k s, exec (i8 ra k) s = scheme ra (.imm8 k) s
  run16 : ∀ ra k s, exec (i16 ra k) s = scheme ra (.imm16 k) s
  runRR : ∀ ra rb s, exec (rr ra rb) s = scheme ra (.reg rb) s

section
variable {major : BitVec 5} {i8 : Reg → Byte → Instr} {i16 : Reg → Word → Instr} {rr : Reg → Reg → Instr}
  {scheme : Reg → Operand → State → Outcome}

/-- The fields of the row as the statements name them (rules R82, R83). -/
theorem RunsScheme.encodedForms (runs : RunsScheme major i8 i16 rr scheme) :
    EncodedForms major (fun ir => i8 (wordRa ir) (ir.extractLsb' 0 8)) (fun ir imm => i16 (wordRa ir) imm)
      (fun ir => rr (wordRa ir) (wordRb ir)) := by
  simp only [wordRa_eq_raField, wordRb_eq_rbField]
  exact encodedForms_of_selectForm _ _ _ _ runs.row

/-- What the scheme does with every operand, the instruction does in its three forms. -/
theorem RunsScheme.twoOperandForms (runs : RunsScheme major i8 i16 rr scheme)
    {Post : State → Word → Word → State → Prop}
    (completes : ∀ s ra o, Completes (scheme ra o s) fun t =>
      t.pc = (afterOperand s o).pc ∧ Post s (s.reg ra) (operandValue s o) t) :
    TwoOperandForms major i8 i16 rr Post := by
  refine ⟨runs.encodedForms, fun s ra => ⟨fun k => ?_, fun k => ?_, fun rb => ?_⟩⟩
  · rw [runs.run8]
    exact completes s ra (.imm8 k)
  · rw [runs.run16]
    exact completes s ra (.imm16 k)
  · rw [runs.runRR]
    exact completes s ra (.reg rb)

end

/-! ### ADD, SUB and CMP -/

theorem add_runsScheme : RunsScheme 0b00000 .addI8 .addI16 .addRR (sumToA add16) :=
  ⟨fun _ _ op => by simp [decodeWords, op], fun _ _ _ => rfl, fun _ _ _ => rfl, fun _ _ _ => rfl⟩

theorem sub_runsScheme : RunsScheme 0b00001 .subI8 .subI16 .subRR (sumToA sub16) :=
  ⟨fun _ _ op => by simp [decodeWords, op], fun _ _ _ => rfl, fun _ _ _ => rfl, fun _ _ _ => rfl⟩

theorem cmp_runsScheme : RunsScheme 0b00010 .cmpI8 .cmpI16 .cmpRR (sumToFlags sub16) :=
  ⟨fun _ _ op => by simp [decodeWords, op], fun _ _ _ => rfl, fun _ _ _ => rfl, fun _ _ _ => rfl⟩

/-- Settles O26: the adder's sum goes to A, its carry and overflow to C and V. -/
theorem addForms : Obligations.AddForms := by
  unfold Obligations.AddForms
  refine add_runsScheme.twoOperandForms fun s ra o => ?_
  exact ⟨_, sumToA_next add16 ra o s, rfl, add16_toNat _ _, nzFrom_flagsOf _ _ _, cvOfAdd_add16 _ _,
    afterOperand_draws s o, onlyAccumulator_sumToA s o _ _⟩

/-- Settles O32: as for ADD, with the difference. -/
theorem subForms : Obligations.SubForms := by
  unfold Obligations.SubForms
  refine sub_runsScheme.twoOperandForms fun s ra o => ?_
  exact ⟨_, sumToA_next sub16 ra o s, rfl, sub16_r _ _, nzFrom_flagsOf _ _ _, cvOfSub_sub16 _ _,
    afterOperand_draws s o, onlyAccumulator_sumToA s o _ _⟩

/-- Settles O28: the flags of the difference, and A is not written. -/
theorem cmpForms : Obligations.CmpForms := by
  unfold Obligations.CmpForms
  refine cmp_runsScheme.twoOperandForms fun s ra o => ?_
  exact ⟨_, sumToFlags_next sub16 ra o s, rfl, nzFrom_sub16 _ _, cvOfSub_sub16 _ _, afterOperand_a s o,
    afterOperand_draws s o, (onlyAccumulator_afterOperand s o).setSumFlags _⟩

/-! ### AND, OR and XOR -/

theorem and_runsScheme : RunsScheme 0b00100 .andI8 .andI16 .andRR (logicToA .and (· &&& ·)) :=
  ⟨fun _ _ op => by simp [decodeWords, op], fun _ _ _ => rfl, fun _ _ _ => rfl, fun _ _ _ => rfl⟩

theorem or_runsScheme : RunsScheme 0b00101 .orI8 .orI16 .orRR (logicToA .or (· ||| ·)) :=
  ⟨fun _ _ op => by simp [decodeWords, op], fun _ _ _ => rfl, fun _ _ _ => rfl, fun _ _ _ => rfl⟩

theorem xor_runsScheme : RunsScheme 0b00110 .xorI8 .xorI16 .xorRR (logicToA .xor (· ^^^ ·)) :=
  ⟨fun _ _ op => by simp [decodeWords, op], fun _ _ _ => rfl, fun _ _ _ => rfl, fun _ _ _ => rfl⟩

/-- An instruction whose result is computed bit by bit writes it to A, takes N and Z from it, and leaves C and V open
(rules R32, R35, R120). -/
theorem RunsScheme.bitwiseForms {major : BitVec 5} {i8 : Reg → Byte → Instr} {i16 : Reg → Word → Instr}
    {rr : Reg → Reg → Instr} {insn : CvInsn} {f : Word → Word → Word} {bit : Bool → Bool → Bool}
    (runs : RunsScheme major i8 i16 rr (logicToA insn f))
    (bits : ∀ a b n, (f a b).getLsbD n = bit (a.getLsbD n) (b.getLsbD n)) :
    TwoOperandForms major i8 i16 rr fun s a b t =>
      (∀ n, t.a.getLsbD n = bit (a.getLsbD n) (b.getLsbD n)) ∧ NZFrom t.a t.flags ∧ CVOpen s insn t.a [a, b] t ∧
      OnlyAccumulator s t := by
  refine runs.twoOperandForms fun s ra o => ?_
  exact ⟨_, logicToA_next insn f ra o s, rfl, bits _ _, nzFrom_flagsOf _ _ _, cvOpen_resultToA s o _ insn _,
    onlyAccumulator_resultToA s o _ insn _⟩

/-- Settles O27: each bit of the result is the AND of the operands' bits. -/
theorem andForms : Obligations.AndForms := by
  unfold Obligations.AndForms
  exact and_runsScheme.bitwiseForms fun _ _ _ => BitVec.getLsbD_and

/-- Settles O30: each bit of the result is the OR of the operands' bits. -/
theorem orForms : Obligations.OrForms := by
  unfold Obligations.OrForms
  exact or_runsScheme.bitwiseForms fun _ _ _ => BitVec.getLsbD_or

/-- Settles O33: each bit of the result is the exclusive OR of the operands' bits. -/
theorem xorForms : Obligations.XorForms := by
  unfold Obligations.XorForms
  exact xor_runsScheme.bitwiseForms fun _ _ _ => BitVec.getLsbD_xor

/-! ### INV and SGX -/

/-- An instruction with one operand writes its result to A, takes N and Z from it, and leaves C and V open (rules R32,
R35, R120). -/
theorem unaryToA_completes (insn : CvInsn) (f : Word → Word) (o : Operand) (s : State) :
    Completes (unaryToA insn f o s) fun t =>
      t.a = f (operandValue s o) ∧ t.pc = (afterOperand s o).pc ∧ NZFrom t.a t.flags ∧
      CVOpen s insn t.a [operandValue s o] t ∧ OnlyAccumulator s t :=
  ⟨_, unaryToA_next insn f o s, rfl, rfl, nzFrom_flagsOf _ _ _, cvOpen_resultToA s o _ insn _,
    onlyAccumulator_resultToA s o _ insn _⟩

/-- INV of any operand (rule R124). -/
theorem unaryToA_not16_completes (o : Operand) (s : State) :
    Completes (unaryToA .inv not16 o s) fun t =>
      t.a.toNat = 65535 - (operandValue s o).toNat ∧ t.pc = (afterOperand s o).pc ∧ NZFrom t.a t.flags ∧
      CVOpen s .inv t.a [operandValue s o] t ∧ OnlyAccumulator s t := by
  obtain ⟨t, run, result, rest⟩ := unaryToA_completes .inv not16 o s
  exact ⟨t, run, by rw [result, not16_toNat], rest⟩

/-- Settles O29: the complement of the operand, in each form. -/
theorem invForms : Obligations.InvForms := by
  unfold Obligations.InvForms
  constructor
  · simp only [wordRb_eq_rbField]
    exact encodedForms_of_selectForm _ _ _ _ fun ir imm op => by simp [decodeWords, opField, op, imm8Field]
  · rintro s i b pc (⟨k, rfl, rfl, rfl⟩ | ⟨rfl, rfl⟩ | ⟨r, rfl, rfl, rfl⟩)
    · exact unaryToA_not16_completes (.imm8 k) s
    · exact unaryToA_not16_completes (.imm16 b) s
    · exact unaryToA_not16_completes (.reg r) s

theorem sgxRegister_bits6_5 {s : State} (field : s.params.sgxField = .bits6_5) (q r : Reg) : sgxRegister s q r = r := by
  rw [sgxRegister, field]

theorem sgxRegister_bits10_9 {s : State} (field : s.params.sgxField = .bits10_9) (q r : Reg) :
    sgxRegister s q r = q := by
  rw [sgxRegister, field]

/-- SGX of any operand (rule R126). -/
theorem unaryToA_signExtendByte_completes (o : Operand) (s : State) :
    Completes (unaryToA .sgx signExtendByte o s) fun t =>
      (∀ n < 8, t.a.getLsbD n = (operandValue s o).getLsbD n) ∧
      (∀ n, 8 ≤ n → n < 16 → t.a.getLsbD n = (operandValue s o).getLsbD 7) ∧ t.pc = (afterOperand s o).pc ∧
      NZFrom t.a t.flags ∧ CVOpen s .sgx t.a [operandValue s o] t ∧ OnlyAccumulator s t := by
  obtain ⟨t, run, result, rest⟩ := unaryToA_completes .sgx signExtendByte o s
  refine ⟨t, run, fun n low => ?_, fun n high inside => ?_, rest⟩
  · rw [result, signExtendByte_low _ n low]
  · rw [result, signExtendByte_high _ n high inside]

/-- `sgx Ra` is SGX of the register that `SGX_REG_FIELD` selects (rule R91). -/
theorem exec_sgxRR {s : State} {q r selected : Reg} (register : sgxRegister s q r = selected) :
    exec (.sgxRR q r) s = unaryToA .sgx signExtendByte (.reg selected) s :=
  register ▸ rfl

/-- Settles O31: the low byte of the operand, sign-extended, in each form and for both values of `SGX_REG_FIELD`. -/
theorem sgxForms : Obligations.SgxForms := by
  unfold Obligations.SgxForms
  constructor
  · simp only [wordRa_eq_raField, wordRb_eq_rbField]
    exact encodedForms_of_selectForm _ _ _ _ fun ir imm op => by simp [decodeWords, opField, op, imm8Field]
  · rintro s i b pc (⟨k, rfl, rfl, rfl⟩ | ⟨rfl, rfl⟩ | ⟨r, q, rfl, field, rfl, rfl⟩ | ⟨r, q, rfl, field, rfl, rfl⟩)
    · exact unaryToA_signExtendByte_completes (.imm8 k) s
    · exact unaryToA_signExtendByte_completes (.imm16 b) s
    · rw [exec_sgxRR (sgxRegister_bits6_5 field q r)]
      exact unaryToA_signExtendByte_completes (.reg r) s
    · rw [exec_sgxRR (sgxRegister_bits10_9 field q r)]
      exact unaryToA_signExtendByte_completes (.reg q) s

/-! ### Negation (rule R129) -/

/-- The complement and 1 make the negative. -/
theorem add16_not16_one (a : Word) : (add16 (not16 a) 1#16).r = -a := by
  rw [add16_r, not16_eq, BitVec.neg_eq_not_add]

/-- Settles O35: A is the complement after INV, and 1 more is the negative of the old A. -/
theorem invThenIncrementNegates : Obligations.InvThenIncrementNegates := by
  unfold Obligations.InvThenIncrementNegates
  intro s
  refine ⟨_, _, unaryToA_next .inv not16 (.reg .a) s, sumToA_next add16 .a (.imm8 1) _, ?_⟩
  calc (add16 (not16 s.a) 1#16).r + s.a = -s.a + s.a := by rw [add16_not16_one]
    _ = 0 := BitVec.add_left_neg s.a

end Sys2Proof.Machine
end

section
/-! SUPPORT. HCF and the end of a run (rules R150, R265): a state is `Halted` exactly when the fetch answers HCF, and
HCF takes back the increment of `pc` that the fetch made. -/

namespace Sys2Proof.Machine

/-! ### The words of HCF -/

/-- Rule R86: the major opcode alone makes a word HCF, and nothing else does. -/
theorem decodeWords_eq_hcf_iff (ir imm : Word) : decodeWords ir imm = .ok .hcf ↔ opField ir = 0b01010 := by
  constructor
  · intro decoded
    obtain ⟨first, -⟩ := hasWords_of_decodeWords decoded
    have major : ir.extractLsb' 11 5 &&& BitVec.allOnes 5 = 0b01010 :=
      BitVec.extractLsb'_and.symm.trans (congrArg opField first.symm)
    rwa [BitVec.and_allOnes] at major
  · intro op
    simp [decodeWords, op]

/-- HCF has no immediate word (rule R81). -/
theorem fetchImmediate_of_hcf (s : State) {ir : Word} (op : opField ir = 0b01010) : fetchImmediate s ir = .ok 0 := by
  simp [fetchImmediate, isLong, hasI16Form, op]

/-! ### Halted states -/

/-- Rule R265: the word at an even `pc` is populated and has the major opcode of HCF. -/
theorem halted_iff (s : State) :
    halted s = true ↔ s.pc.getLsbD 0 = false ∧ ∃ ir, s.readWord s.pc = .ok ir ∧ opField ir = 0b01010 := by
  unfold halted
  cases s.readWord s.pc <;> simp

theorem halted_iff_fetch (s : State) : halted s = true ↔ fetch s = .instr .hcf s.advance := by
  rw [halted_iff, fetch_instr_iff]
  refine and_congr_right fun _ => ⟨?_, ?_⟩
  · rintro ⟨ir, word, op⟩
    exact ⟨ir, 0, word, fetchImmediate_of_hcf s op, (decodeWords_eq_hcf_iff ir 0).2 op, rfl⟩
  · rintro ⟨ir, imm, word, -, decoded, -⟩
    exact ⟨ir, word, (decodeWords_eq_hcf_iff ir imm).1 decoded⟩

/-- HCF takes back the increment of the fetch (rules R26, R150). -/
theorem execHcf_advance (s : State) : execHcf s.advance = .next s := by
  rw [execHcf, advance_pc, BitVec.add_sub_cancel]
  rfl

theorem step_of_halted {s : State} (h : halted s = true) : step s = .next s :=
  (step_of_fetch_instr s _ _ ((halted_iff_fetch s).1 h)).trans (execHcf_advance s)

theorem core_run_of_halted {s : State} (h : halted s = true) (k : Nat) : core.run k s = .next s := by
  induction k with
  | zero => exact core_run_zero s
  | succ k ih => rw [core_run_succ_of_next s s k (step_of_halted h), ih]

/-- A run from a `Halted` state makes no step (rule R265). -/
theorem runToHalt_of_halted {s : State} (h : halted s = true) (fuel : Nat) : runToHalt fuel s = .halted s := by
  cases fuel <;> rw [runToHalt, if_pos h]

/-- Settles O12: the fetch reads the word that `Halted` speaks of, and it decodes to HCF by its major opcode. -/
theorem haltedExactlyAtHcf : Obligations.HaltedExactlyAtHcf := by
  unfold Obligations.HaltedExactlyAtHcf
  exact halted_iff_fetch

/-- Settles O11: a step from a `Halted` state comes back to it. -/
theorem haltedIsFixedPoint : Obligations.HaltedIsFixedPoint := by
  unfold Obligations.HaltedIsFixedPoint
  exact fun s h k => ⟨core_run_of_halted h k, runToHalt_of_halted h k⟩

/-- Settles O45: a state with a populated HCF word at an even `pc` is `Halted`. -/
theorem hcfRepeatsItself : Obligations.HcfRepeatsItself := by
  unfold Obligations.HcfRepeatsItself
  refine ⟨fun ir imm => (decodeWords_eq_hcf_iff ir imm).2, fun s => rfl, fun s even populated op => ?_⟩
  have word := (readWord_ok_iff s s.pc _).2 ⟨(wordPopulated_iff s s.pc).1 populated, rfl⟩
  exact step_of_halted ((halted_iff s).2 ⟨even, _, word, op⟩)

end Sys2Proof.Machine
end

section
/-! SUPPORT. The jumps and JAP (rules R151 to R172). A control transfer with a relative, an absolute or a register
target is one scheme over the target, and the fifteen jumps are one scheme over the condition, so each is settled once
for all its forms. -/

namespace Sys2Proof.Machine

/-! ### A control transfer in its three forms -/

/-- The form of a control transfer that goes to a target (rule R153). -/
def transferForm (i8 : Byte → Instr) (i16 : Word → Instr) (rr : Reg → Instr) : Target → Instr
  | .relative k => i8 k
  | .absolute k => i16 k
  | .register r => rr r

/-- What a control transfer does with every target, it does in its three forms (rules R83, R153). -/
theorem targetForms_of_row {major : BitVec 5} {i8 : Byte → Instr} {i16 : Word → Instr} {rr : Reg → Instr}
    {Does : State → Instr → Word → Word → Prop}
    (row : ∀ ir imm : Word, opField ir = major →
      decodeWords ir imm = .ok (selectForm ir (i8 (imm8Field ir)) (i16 imm) (rr (rbField ir))))
    (does : ∀ s g, Does s (transferForm i8 i16 rr g) (targetAddress s g) (afterTarget s g)) :
    TargetForms major i8 i16 rr Does := by
  constructor
  · simp only [wordRb_eq_rbField]
    exact encodedForms_of_selectForm _ _ _ _ row
  · refine fun s => ⟨fun k => ?_, fun k => does s (.absolute k), fun r => does s (.register r)⟩
    rw [ofInt_relative]
    exact does s (.relative k)

/-! ### The fifteen jumps -/

/-- The major opcode of the jump with a condition: 1, then the jump code (rules R151, R155). -/
def Cond.opcode : Cond → BitVec 5
  | .nc => 0b10000
  | .ns => 0b10001
  | .ne => 0b10010
  | .eq => 0b10011
  | .lo => 0b10100
  | .hs => 0b10101
  | .vc => 0b10110
  | .vs => 0b10111
  | .ge => 0b11000
  | .lt => 0b11001
  | .hi => 0b11010
  | .ls => 0b11011
  | .gt => 0b11100
  | .le => 0b11101
  | .mp => 0b11110

/-- The jump with a condition to a target. -/
def jumpInstr : Cond → Target → Instr
  | .nc => transferForm .jncI8 .jncI16 .jncRR
  | .ns => transferForm .jnsI8 .jnsI16 .jnsRR
  | .ne => transferForm .jneI8 .jneI16 .jneRR
  | .eq => transferForm .jeqI8 .jeqI16 .jeqRR
  | .lo => transferForm .jloI8 .jloI16 .jloRR
  | .hs => transferForm .jhsI8 .jhsI16 .jhsRR
  | .vc => transferForm .jvcI8 .jvcI16 .jvcRR
  | .vs => transferForm .jvsI8 .jvsI16 .jvsRR
  | .ge => transferForm .jgeI8 .jgeI16 .jgeRR
  | .lt => transferForm .jltI8 .jltI16 .jltRR
  | .hi => transferForm .jhiI8 .jhiI16 .jhiRR
  | .ls => transferForm .jlsI8 .jlsI16 .jlsRR
  | .gt => transferForm .jgtI8 .jgtI16 .jgtRR
  | .le => transferForm .jleI8 .jleI16 .jleRR
  | .mp => transferForm .jmpI8 .jmpI16 .jmpRR

section
variable (c : Cond)

/-- Each jump's row of the opcode map (rule R86). -/
theorem decodeWords_of_cond {ir : Word} (imm : Word) (op : opField ir = c.opcode) :
    decodeWords ir imm = .ok (selectForm ir (jumpInstr c (.relative (imm8Field ir))) (jumpInstr c (.absolute imm))
      (jumpInstr c (.register (rbField ir)))) := by
  rw [decodeWords, op]
  cases c <;> rfl

/-- Each jump's meaning is the one scheme with its own condition (rule R154). -/
theorem exec_jumpInstr (g : Target) (s : State) : exec (jumpInstr c g) s = jump c g s := by
  cases c <;> cases g <;> rfl

variable {c} {g : Target} {s : State}

theorem exec_jumpInstr_taken (taken : condHolds s.flags c = true) :
    exec (jumpInstr c g) s = .next { s with pc := targetAddress s g } := by
  rw [exec_jumpInstr, jump_next, if_pos taken]
  rfl

theorem exec_jumpInstr_untaken (untaken : condHolds s.flags c = false) :
    exec (jumpInstr c g) s = .next { s with pc := afterTarget s g } := by
  rw [exec_jumpInstr, jump_next, if_neg (Bool.eq_false_iff.1 untaken)]
  rfl

end

/-- What the jump with a condition does with every target, it does in its three forms. -/
theorem targetForms_of_cond (c : Cond) {Does : State → Instr → Word → Word → Prop}
    (does : ∀ s g, Does s (jumpInstr c g) (targetAddress s g) (afterTarget s g)) :
    TargetForms c.opcode (fun k => jumpInstr c (.relative k)) (fun k => jumpInstr c (.absolute k))
      (fun r => jumpInstr c (.register r)) Does := by
  refine targetForms_of_row (fun ir imm => decodeWords_of_cond c imm) fun s g => ?_
  cases g <;> exact does s _

/-- The jump with a condition is taken exactly when the condition's meaning holds of the flags (rules R154, R155). -/
theorem jumpsWhen_of_cond (c : Cond) {taken : Flags → Prop} (meaning : ∀ f, condHolds f c = true ↔ taken f) :
    JumpsWhen c.opcode (fun k => jumpInstr c (.relative k)) (fun k => jumpInstr c (.absolute k))
      (fun r => jumpInstr c (.register r)) taken := by
  refine targetForms_of_cond c fun s g => ⟨fun holds => ?_, fun fails => ?_⟩
  · exact exec_jumpInstr_taken ((meaning s.flags).2 holds)
  · exact exec_jumpInstr_untaken (Bool.eq_false_iff.2 fun holds => fails ((meaning s.flags).1 holds))

/-- Settles O47: the conditions on N and on Z. -/
theorem negativeAndZeroJumps : Obligations.NegativeAndZeroJumps := by
  unfold Obligations.NegativeAndZeroJumps
  refine ⟨jumpsWhen_of_cond .nc fun f => ?nc, jumpsWhen_of_cond .ns fun f => ?ns, jumpsWhen_of_cond .ne fun f => ?ne,
    jumpsWhen_of_cond .eq fun f => ?eq⟩
  case nc | ne => exact (Bool.not_eq_true' _).to_iff
  case ns | eq => rfl

/-- Settles O48: the conditions on C and on V. -/
theorem carryAndOverflowJumps : Obligations.CarryAndOverflowJumps := by
  unfold Obligations.CarryAndOverflowJumps
  refine ⟨jumpsWhen_of_cond .lo fun f => ?lo, jumpsWhen_of_cond .hs fun f => ?hs, jumpsWhen_of_cond .vc fun f => ?vc,
    jumpsWhen_of_cond .vs fun f => ?vs⟩
  case lo | vc => exact (Bool.not_eq_true' _).to_iff
  case hs | vs => rfl

/-- Settles O49: the conditions on two or three flags. -/
theorem comparisonJumps : Obligations.ComparisonJumps := by
  unfold Obligations.ComparisonJumps
  refine ⟨jumpsWhen_of_cond .ge fun f => ?ge, jumpsWhen_of_cond .lt fun f => ?lt, jumpsWhen_of_cond .hi fun f => ?hi,
    jumpsWhen_of_cond .ls fun f => ?ls, jumpsWhen_of_cond .gt fun f => ?gt, jumpsWhen_of_cond .le fun f => ?le⟩
  case ge => exact beq_iff_eq
  case lt => exact bne_iff_ne
  all_goals simp [condHolds]

/-- Settles O50: JMP is the jump whose condition holds of all flags. -/
theorem unconditionalJump : Obligations.UnconditionalJump := by
  unfold Obligations.UnconditionalJump
  exact targetForms_of_cond .mp fun s g => exec_jumpInstr_taken rfl

/-! ### Pairs of conditions (rule R155) -/

/-- The other condition of a pair; `mp`, which is paired with JAP, has none and stands for itself. -/
def Cond.opposite : Cond → Cond
  | .nc => .ns
  | .ns => .nc
  | .ne => .eq
  | .eq => .ne
  | .lo => .hs
  | .hs => .lo
  | .vc => .vs
  | .vs => .vc
  | .ge => .lt
  | .lt => .ge
  | .hi => .ls
  | .ls => .hi
  | .gt => .le
  | .le => .gt
  | .mp => .mp

theorem Cond.opcode_opposite {c : Cond} (paired : c ≠ .mp) : c.opposite.opcode = c.opcode ^^^ 1 := by
  cases c with
  | mp => exact absurd rfl paired
  | _ => rfl

theorem condHolds_opposite {c : Cond} (paired : c ≠ .mp) (f : Flags) :
    condHolds f c.opposite = !condHolds f c := by
  cases c with
  | mp => exact absurd rfl paired
  | _ => simp [condHolds, Cond.opposite, bne]

/-- Bits 14:12 of a word are bits 3:1 of its major opcode. -/
theorem pairBits_opField (ir : Word) : (opField ir).extractLsb' 1 3 = ir.extractLsb' 12 3 := by
  apply BitVec.eq_of_getLsbD_eq
  intro n inside
  simp [opField, inside, show 1 + n < 5 by omega, show 11 + (1 + n) = 12 + n by omega]

/-- Every major opcode from 10000 to 11101 is that of a conditional jump (rules R86, R155). -/
theorem exists_cond_of_opcode (op : BitVec 5) (top : op.getLsbD 4 = true) (pair : op.extractLsb' 1 3 ≠ 0b111) :
    ∃ c : Cond, c ≠ .mp ∧ op = c.opcode := by
  have listed : ∀ op : BitVec 5, op.getLsbD 4 = true → op.extractLsb' 1 3 ≠ 0b111 →
      ∃ c ∈ [Cond.nc, .ns, .ne, .eq, .lo, .hs, .vc, .vs, .ge, .lt, .hi, .ls, .gt, .le], c ≠ .mp ∧ op = c.opcode := by
    decide
  obtain ⟨c, -, found⟩ := listed op top pair
  exact ⟨c, found⟩

theorem decodeWords_absolute_of_cond {c : Cond} {ir imm : Word} (op : opField ir = c.opcode)
    (h8 : ir.getLsbD 8 = true) (h7 : ir.getLsbD 7 = false) :
    decodeWords ir imm = .ok (jumpInstr c (.absolute imm)) := by
  rw [decodeWords_of_cond c imm op, selectForm_i16 _ _ _ h8 h7]

/-- Settles O53: bit 11 leads to the opposite condition. -/
theorem jumpCodesPairUp : Obligations.JumpCodesPairUp := by
  unfold Obligations.JumpCodesPairUp
  intro ir imm i j s top pair h8 h7 decoded decodedFlipped
  have topOp : (opField ir).getLsbD 4 = true := by simpa [opField] using top
  have pairOp : (opField ir).extractLsb' 1 3 ≠ 0b111 := by rwa [pairBits_opField]
  obtain ⟨c, paired, op⟩ := exists_cond_of_opcode (opField ir) topOp pairOp
  have opFlipped : opField (ir ^^^ 0x0800) = c.opposite.opcode := by
    rw [Cond.opcode_opposite paired, ← op]
    simp [opField, BitVec.extractLsb'_xor]
  have h8Flipped : (ir ^^^ 0x0800).getLsbD 8 = true := by simpa using h8
  have h7Flipped : (ir ^^^ 0x0800).getLsbD 7 = false := by simpa using h7
  cases (decodeWords_absolute_of_cond op h8 h7).symm.trans decoded
  cases (decodeWords_absolute_of_cond opFlipped h8Flipped h7Flipped).symm.trans decodedFlipped
  have opposite := condHolds_opposite paired s.flags
  cases holds : condHolds s.flags c with
  | true =>
    rw [holds] at opposite
    exact .inl ⟨exec_jumpInstr_taken holds, exec_jumpInstr_untaken opposite⟩
  | false =>
    rw [holds] at opposite
    exact .inr ⟨exec_jumpInstr_untaken holds, exec_jumpInstr_taken opposite⟩

/-! ### JAP and the return -/

theorem decodeWords_jap {ir : Word} (imm : Word) (op : opField ir = 0b11111) :
    decodeWords ir imm = .ok (selectForm ir (.japI8 (imm8Field ir)) (.japI16 imm) (.japRR (rbField ir))) := by
  simp [decodeWords, op]

theorem exec_jap (g : Target) (s : State) : exec (transferForm .japI8 .japI16 .japRR g) s = jumpAndPush g s := by
  cases g <;> rfl

/-- Settles O46: JAP stores the address after it as a word at SP, and then moves `pc`. -/
theorem japForms : Obligations.JapForms := by
  unfold Obligations.JapForms
  refine targetForms_of_row (fun ir imm => decodeWords_jap imm) fun s g canonical populated => ?_
  have inside := (wordPopulated_iff s s.sp).1 populated
  have low := byteAt_putWord_low s s.sp (afterTarget s g) s.params.byteOrder canonical
  have high := byteAt_putWord_high s s.sp (afterTarget s g) s.params.byteOrder canonical
  rw [exec_jap]
  refine ⟨_, (jumpAndPush_next_iff g s _).2 ⟨inside, rfl⟩, rfl, fun little => ?_, fun big => ?_, fun other h0 h1 => ?_,
    putBytes_a _ _ _, ⟨putBytes_x _ _ _, putBytes_y _ _ _, putBytes_sp _ _ _⟩,
    ⟨putBytes_flags _ _ _, putBytes_draws _ _ _⟩, putBytes_params _ _ _⟩
  · rw [little] at low high ⊢
    exact ⟨low, high⟩
  · rw [big] at low high ⊢
    exact ⟨low, high⟩
  · exact byteAt_putWord_other s s.sp other _ _ h0 h1

/-- A word reads the same where its two bytes and the parameters are the same. -/
theorem readWord_congr {s u : State} {addr : Word} (params : u.params = s.params)
    (low : u.byteAt addr = s.byteAt addr) (high : u.byteAt (addr + 1#16) = s.byteAt (addr + 1#16)) :
    u.readWord addr = s.readWord addr := by
  have populated (a : Word) : u.populated a = s.populated a := by
    rw [State.populated, State.populated, params]
  have check : u.checkWord addr = s.checkWord addr := by
    rw [State.checkWord, State.checkWord, populated, populated]
  rw [State.readWord, State.readWord, check, params, low, high]

/-- After JAP the word at SP is the address of the instruction after it (rule R152). -/
theorem readWord_of_jumpAndPush {g : Target} {s t : State} (canonical : s.mem.wf)
    (pushed : jumpAndPush g s = .next t) : t.readWord s.sp = .ok (afterTarget s g) := by
  obtain ⟨inside, rfl⟩ := (jumpAndPush_next_iff g s t).1 pushed
  exact readWord_putWord s s.sp (afterTarget s g) canonical inside

/-- LDA of a word that can be read (rule R191). -/
theorem loadWord_of_readWord {ra : Reg} {o : Operand} {s : State} {ea w : Word} (address : effectiveAddress s ra o = ea)
    (word : s.readWord ea = .ok w) : loadWord ra o s = loadedToA .lda ea o s w := by
  rw [loadWord, address, word, accessing_ok]

/-- Settles O58: `ret` loads the saved word, which is still the address after the JAP, and jumps to it. -/
theorem returnAfterCall : Obligations.ReturnAfterCall := by
  unfold Obligations.ReturnAfterCall
  intro s t u target canonical _ called lower params low high
  have kept : t.params = s.params := (exec_storesPopulated called).params
  have pushed : jumpAndPush (.absolute target) s = .next t := called
  have saved : u.readWord s.sp = .ok (s.pc + 2) :=
    (readWord_congr (params.trans kept.symm) low high).trans (readWord_of_jumpAndPush canonical pushed)
  have address : effectiveAddress u .sp (.imm8 2) = s.sp := by
    rw [effectiveAddress, reg_sp, lower]
    exact BitVec.sub_add_cancel s.sp 2
  obtain ⟨-, rfl⟩ := (jumpAndPush_next_iff _ s t).1 pushed
  exact ⟨_, _, rfl, _, loadWord_of_readWord address saved, _, jump_next .mp (.register .a) _, rfl, rfl, rfl,
    ⟨rfl, rfl, rfl⟩, fun _ => rfl⟩

end Sys2Proof.Machine
end

section
/-! SUPPORT. LDA, LDAB, STA and STAB (rules R190 to R194). A load or store is one scheme over its operand, as an
arithmetic instruction is, so each is settled once for all its forms. -/

namespace Sys2Proof.Machine

/-! ### A load or store in its three forms -/

/-- What the scheme does with every operand, at the effective address and up to the `pc` after the operand, the
instruction does in its three forms (rules R27, R190). -/
theorem RunsScheme.addressedForms {major : BitVec 5} {i8 : Reg → Byte → Instr} {i16 : Reg → Word → Instr}
    {rr : Reg → Reg → Instr} {scheme : Reg → Operand → State → Outcome} {Does : State → Instr → Word → Word → Prop}
    (runs : RunsScheme major i8 i16 rr scheme)
    (does : ∀ s ra o i, exec i s = scheme ra o s → Does s i (effectiveAddress s ra o) (afterOperand s o).pc) :
    AddressedForms major i8 i16 rr Does :=
  ⟨runs.encodedForms, fun s ra => ⟨fun k => does s ra (.imm8 k) _ (runs.run8 ra k s),
    fun k => does s ra (.imm16 k) _ (runs.run16 ra k s), fun rb => does s ra (.reg rb) _ (runs.runRR ra rb s)⟩⟩

theorem lda_runsScheme : RunsScheme 0b01100 .ldaI8 .ldaI16 .ldaRR loadWord :=
  ⟨fun _ _ op => by simp [decodeWords, op], fun _ _ _ => rfl, fun _ _ _ => rfl, fun _ _ _ => rfl⟩

theorem ldab_runsScheme : RunsScheme 0b01101 .ldabI8 .ldabI16 .ldabRR loadByte :=
  ⟨fun _ _ op => by simp [decodeWords, op], fun _ _ _ => rfl, fun _ _ _ => rfl, fun _ _ _ => rfl⟩

theorem sta_runsScheme : RunsScheme 0b01110 .staI8 .staI16 .staRR storeWord :=
  ⟨fun _ _ op => by simp [decodeWords, op], fun _ _ _ => rfl, fun _ _ _ => rfl, fun _ _ _ => rfl⟩

theorem stab_runsScheme : RunsScheme 0b01111 .stabI8 .stabI16 .stabRR storeByte :=
  ⟨fun _ _ op => by simp [decodeWords, op], fun _ _ _ => rfl, fun _ _ _ => rfl, fun _ _ _ => rfl⟩

theorem populated_of_lt {s : State} {addr : Word} (inside : addr.toNat < s.params.memSize) : s.populated addr = true :=
  decide_eq_true inside

/-! ### Loads -/

/-- A loaded value goes to A, N and Z are those of it, C and V are left open, and `pc` moves past the operand (rules
R27, R32, R35, R190). -/
theorem loadedToA_completes (insn : CvInsn) (ea : Word) (o : Operand) (s : State) (w : Word) :
    Completes (loadedToA insn ea o s w) fun t =>
      t.a = w ∧ t.pc = (afterOperand s o).pc ∧ NZFrom t.a t.flags ∧ CVOpen s insn t.a [ea] t ∧ OnlyAccumulator s t :=
  ⟨_, rfl, rfl, rfl, nzFrom_flagsOf _ _ _, cvOpen_resultToA s o w insn _, onlyAccumulator_resultToA s o w insn _⟩

/-- LDA of a populated word (rules R52, R191). -/
theorem loadWord_completes {s : State} {ra : Reg} {o : Operand} (populated : WordPopulated s (effectiveAddress s ra o)) :
    Completes (loadWord ra o s) fun t =>
      t.a = joinBytes s.params.byteOrder (s.byteAt (effectiveAddress s ra o))
        (s.byteAt (effectiveAddress s ra o + 1)) ∧
      t.pc = (afterOperand s o).pc ∧ NZFrom t.a t.flags ∧ CVOpen s .lda t.a [effectiveAddress s ra o] t ∧
      OnlyAccumulator s t := by
  obtain ⟨t, loaded, post⟩ := loadedToA_completes .lda _ o s _
  exact ⟨t, (loadWord_next_iff ra o s t).2 ⟨(wordPopulated_iff s _).1 populated, loaded⟩, post⟩

/-- LDAB of a populated byte (rule R192). -/
theorem loadByte_completes {s : State} {ra : Reg} {o : Operand}
    (inside : (effectiveAddress s ra o).toNat < s.params.memSize) :
    Completes (loadByte ra o s) fun t =>
      t.a = zext16 (s.byteAt (effectiveAddress s ra o)) ∧ t.pc = (afterOperand s o).pc ∧ NZFrom t.a t.flags ∧
      CVOpen s .ldab t.a [effectiveAddress s ra o] t ∧ OnlyAccumulator s t := by
  obtain ⟨t, loaded, post⟩ := loadedToA_completes .ldab _ o s _
  exact ⟨t, (loadByte_next_iff ra o s t).2 ⟨populated_of_lt inside, loaded⟩, post⟩

/-- Settles O41: A is the word that the two bytes make in the byte order. -/
theorem ldaForms : Obligations.LdaForms := by
  unfold Obligations.LdaForms
  refine lda_runsScheme.addressedForms fun s ra o i run populated => ?_
  obtain ⟨t, loaded, word, rest⟩ := loadWord_completes populated
  refine ⟨t, run.trans loaded, fun little => ?_, fun big => ?_, rest⟩
  · rw [word, little, toNat_joinBytes_little]
  · rw [word, big, toNat_joinBytes_big]

theorem zext16_eq_zero_iff (b : Byte) : zext16 b = 0 ↔ b = 0 := by
  rw [← BitVec.toNat_inj, ← BitVec.toNat_inj, zext16_toNat]
  rfl

/-- N and Z of a zero-extended byte: bit 15 is 0, and the word is 0 when the byte is (rules R32, R84). -/
theorem nzFrom_zext16_iff (b : Byte) (f : Flags) : NZFrom (zext16 b) f ↔ f.n = false ∧ (f.z = true ↔ b = 0) := by
  have bit15 : (zext16 b).getLsbD 15 = false := by rw [← zext16_msb b, BitVec.msb_eq_getLsbD_last]
  rw [NZFrom, bit15, zext16_eq_zero_iff]
  simp

/-- Settles O42: A is the zero-extended byte. -/
theorem ldabForms : Obligations.LdabForms := by
  unfold Obligations.LdabForms
  refine ldab_runsScheme.addressedForms fun s ra o i run inside => ?_
  obtain ⟨t, loaded, byte, pc, nz, cv, frame⟩ := loadByte_completes inside
  obtain ⟨positive, zero⟩ := (nzFrom_zext16_iff _ _).1 (byte ▸ nz)
  exact ⟨t, run.trans loaded, by rw [byte, zext16_toNat], positive, zero, pc, cv, frame⟩

/-! ### Stores -/

/-- A store leaves the registers, the flags and the parameters, and moves `pc` past the operand (rules R27, R193,
R194). -/
theorem afterOperand_putBytes_keeps (s : State) (o : Operand) (addr : Word) (l : List Byte) :
    (afterOperand (s.putBytes addr l) o).pc = (afterOperand s o).pc ∧ (afterOperand (s.putBytes addr l) o).a = s.a ∧
    KeepsArguments s (afterOperand (s.putBytes addr l) o) ∧ KeepsFlags s (afterOperand (s.putBytes addr l) o) ∧
    KeepsParams s (afterOperand (s.putBytes addr l) o) := by
  simp [KeepsArguments, KeepsFlags, KeepsParams]

/-- STA to a populated word (rules R52, R193). -/
theorem storeWord_completes {s : State} {ra : Reg} {o : Operand} (canonical : s.mem.wf)
    (populated : WordPopulated s (effectiveAddress s ra o)) :
    Completes (storeWord ra o s) fun t =>
      t.byteAt (effectiveAddress s ra o) = (splitWord s.params.byteOrder s.a).1 ∧
      t.byteAt (effectiveAddress s ra o + 1) = (splitWord s.params.byteOrder s.a).2 ∧
      (∀ addr, addr ≠ effectiveAddress s ra o → addr ≠ effectiveAddress s ra o + 1 → t.byteAt addr = s.byteAt addr) ∧
      t.pc = (afterOperand s o).pc ∧ t.a = s.a ∧ KeepsArguments s t ∧ KeepsFlags s t ∧ KeepsParams s t := by
  refine ⟨_, (storeWord_next_iff ra o s _).2 ⟨(wordPopulated_iff s _).1 populated, rfl⟩, ?_, ?_, fun addr h0 h1 => ?_,
    afterOperand_putBytes_keeps s o _ _⟩
  · rw [byteAt_afterOperand]
    exact byteAt_putWord_low s _ s.a _ canonical
  · rw [byteAt_afterOperand]
    exact byteAt_putWord_high s _ s.a _ canonical
  · rw [byteAt_afterOperand]
    exact byteAt_putWord_other s _ addr s.a _ h0 h1

/-- Settles O43: the byte order says which half of A goes to which of the two bytes. -/
theorem staForms : Obligations.StaForms := by
  unfold Obligations.StaForms
  refine sta_runsScheme.addressedForms fun s ra o i run canonical populated => ?_
  obtain ⟨t, stored, low, high, rest⟩ := storeWord_completes canonical populated
  refine ⟨t, run.trans stored, fun little => ?_, fun big => ?_, rest⟩
  · rw [little] at low high
    exact ⟨low, high⟩
  · rw [big] at low high
    exact ⟨low, high⟩

/-- Settles O44: the low byte of A is stored, and nothing else in memory changes. -/
theorem stabForms : Obligations.StabForms := by
  unfold Obligations.StabForms
  refine stab_runsScheme.addressedForms fun s ra o i run canonical inside => ?_
  have stored := (storeByte_next_iff ra o s _).2 ⟨populated_of_lt inside, rfl⟩
  refine ⟨_, run.trans stored, ?_, fun addr other => ?_,
    afterOperand_putBytes_keeps s o (effectiveAddress s ra o) [s.a.extractLsb' 0 8]⟩
  · rw [byteAt_afterOperand]
    exact byteAt_putByte_same s _ _ canonical
  · rw [byteAt_afterOperand]
    exact byteAt_putByte_other s _ addr _ other

end Sys2Proof.Machine
end

section
/-! SUPPORT. The shifts (rules R210 to R214). A shift by an immediate and by a register is one scheme over the amount,
so each shift is settled by what its word is at every amount. -/

namespace Sys2Proof.Machine

/-! ### A shift in its two forms -/

/-- The two instructions of a shift code `pq`: their row of the opcode map (rule R92), and both forms as `shiftToA` with
the amount of the form (rule R210). -/
structure RunsShift (p q : Bool) (shi : Reg → BitVec 4 → Instr) (shr : Reg → Reg → Instr) (insn : CvInsn)
    (shift : Word → Nat → Word) : Prop where
  row : ∀ ir : Word, ir.getLsbD 7 = p → ir.getLsbD 4 = q →
    decodeShift ir = if modeBit ir then shr (raField ir) (rbField ir) else shi (raField ir) (imm4Field ir)
  runImm : ∀ ra n s, exec (shi ra n) s = shiftToA insn shift ra n.toNat s
  runReg : ∀ ra rb s, exec (shr ra rb) s = shiftToA insn shift ra (shiftRegAmount s rb) s

theorem sll_runsShift : RunsShift false false .sllSHI .sllSHR .sll sll16 :=
  ⟨fun ir h7 h4 => by rw [decodeShift, h7, h4]; cases modeBit ir <;> rfl, fun _ _ _ => rfl, fun _ _ _ => rfl⟩

theorem srl_runsShift : RunsShift false true .srlSHI .srlSHR .srl srl16 :=
  ⟨fun ir h7 h4 => by rw [decodeShift, h7, h4]; cases modeBit ir <;> rfl, fun _ _ _ => rfl, fun _ _ _ => rfl⟩

theorem sra_runsShift : RunsShift true false .sraSHI .sraSHR .sra sra16 :=
  ⟨fun ir h7 h4 => by rw [decodeShift, h7, h4]; cases modeBit ir <;> rfl, fun _ _ _ => rfl, fun _ _ _ => rfl⟩

theorem srr_runsShift : RunsShift true true .srrSHI .srrSHR .srr srr16 :=
  ⟨fun ir h7 h4 => by rw [decodeShift, h7, h4]; cases modeBit ir <;> rfl, fun _ _ _ => rfl, fun _ _ _ => rfl⟩

theorem decodeWords_shift {ir : Word} (op : opField ir = 0b01000) (imm : Word) :
    decodeWords ir imm = .ok (decodeShift ir) := by
  simp [decodeWords, op]

theorem shiftRegAmount_low4 {s : State} (rule : s.params.shiftAmount = .low4) (rb : Reg) :
    shiftRegAmount s rb = (s.reg rb).toNat % 16 := by
  rw [shiftRegAmount, rule]

theorem shiftRegAmount_full {s : State} (rule : s.params.shiftAmount = .full) (rb : Reg) :
    shiftRegAmount s rb = (s.reg rb).toNat := by
  rw [shiftRegAmount, rule]

/-- A shift writes its result to A, takes N and Z from it, leaves C and V open and `pc` where it was (rules R32, R35,
R210). -/
theorem shiftToA_completes (insn : CvInsn) (shift : Word → Nat → Word) (ra : Reg) (n : Nat) (s : State) :
    Completes (shiftToA insn shift ra n s) fun t =>
      t.pc = s.pc ∧ t.a = shift (s.reg ra) n ∧ NZFrom t.a t.flags ∧
      CVOpen s insn t.a [s.reg ra, BitVec.ofNat 16 n] t ∧ OnlyAccumulator s t :=
  ⟨_, shiftToA_next insn shift ra n s, rfl, rfl, nzFrom_flagsOf _ _ _, cvOpen_setResultFlags s _ insn _ _ rfl rfl,
    ⟨rfl, rfl, rfl⟩, fun _ => rfl, rfl⟩

/-- What follows from the word in A and from what every shift does, the instruction does in its two forms. -/
theorem RunsShift.shiftForms {p q : Bool} {shi : Reg → BitVec 4 → Instr} {shr : Reg → Reg → Instr} {insn : CvInsn}
    {shift : Word → Nat → Word} {Post : State → Word → Nat → State → Prop} (runs : RunsShift p q shi shr insn shift)
    (post : ∀ s v n t, t.a = shift v n → NZFrom t.a t.flags ∧ CVOpen s insn t.a [v, BitVec.ofNat 16 n] t ∧
      OnlyAccumulator s t → Post s v n t) :
    ShiftForms p q shi shr Post := by
  refine ⟨fun ir imm op h7 h4 => ?_, fun s ra => ⟨fun n => ?_, fun rb => ?_⟩⟩
  · rw [decodeWords_shift op, runs.row ir h7 h4, wordRa_eq_raField, wordRb_eq_rbField]
    exact ⟨fun h8 => by simp [show modeBit ir = false from h8, imm4Field],
      fun h8 => by simp [show modeBit ir = true from h8]⟩
  · obtain ⟨t, run, pc, result, rest⟩ := shiftToA_completes insn shift ra n.toNat s
    exact ⟨t, (runs.runImm ra n s).trans run, pc, post s _ _ t result rest⟩
  · obtain ⟨t, run, pc, result, rest⟩ := shiftToA_completes insn shift ra (shiftRegAmount s rb) s
    have shifted := post s _ _ t result rest
    exact ⟨t, (runs.runReg ra rb s).trans run, pc, fun low4 => shiftRegAmount_low4 low4 rb ▸ shifted,
      fun full => shiftRegAmount_full full rb ▸ shifted⟩

/-! ### The shifted word, as a number and bit by bit -/

theorem toNat_sll16 (v : Word) (n : Nat) : (sll16 v n).toNat = v.toNat * 2 ^ n % 65536 := BitVec.toNat_ofNat _ 16

theorem getLsbD_sll16 (v : Word) (n : Nat) {j : Nat} (inside : j < 16) :
    (sll16 v n).getLsbD j = (decide (n ≤ j) && v.getLsbD (j - n)) := by
  rw [sll16_eq_shiftLeft, BitVec.getLsbD_shiftLeft]
  by_cases above : n ≤ j
  · simp [inside, above, Nat.not_lt.2 above]
  · simp [above, Nat.not_le.1 above]

theorem toNat_srl16 (v : Word) (n : Nat) : (srl16 v n).toNat = v.toNat / 2 ^ n := by
  rw [srl16_eq_ushiftRight, BitVec.toNat_ushiftRight, Nat.shiftRight_eq_div_pow]

theorem getLsbD_srl16 (v : Word) (n j : Nat) : (srl16 v n).getLsbD j = v.getLsbD (j + n) := by
  rw [srl16_eq_ushiftRight, BitVec.getLsbD_ushiftRight, Nat.add_comm]

/-- The divisor is positive, so the quotient of the arithmetic shift is the one rounded towards minus infinity. -/
theorem toInt_sra16 (v : Word) (n : Nat) : (sra16 v n).toInt = v.toInt.fdiv (2 ^ n) := by
  rw [sra16_eq_sshiftRight, BitVec.toInt_sshiftRight, Int.shiftRight_eq_div_pow,
    Int.fdiv_eq_ediv_of_nonneg _ (by positivity)]
  norm_cast

theorem getLsbD_sra16 (v : Word) (n : Nat) {j : Nat} (inside : j < 16) :
    (sra16 v n).getLsbD j = if j + n < 16 then v.getLsbD (j + n) else v.getLsbD 15 := by
  rw [sra16_eq_sshiftRight, BitVec.getLsbD_sshiftRight, BitVec.msb_eq_getLsbD_last, Nat.add_comm n j]
  simp [inside]

/-- The bits that leave at the low end come in again at the high end. -/
theorem getLsbD_srr16 (v : Word) (n : Nat) {j : Nat} (inside : j < 16) :
    (srr16 v n).getLsbD j = v.getLsbD ((j + n) % 16) := by
  rw [srr16_eq_rotateRight, BitVec.getLsbD_rotateRight]
  by_cases stays : j < 16 - n % 16
  · rw [decide_eq_true stays, cond_true, show (j + n) % 16 = n % 16 + j by omega]
  · rw [decide_eq_false stays, cond_false, show (j + n) % 16 = j - (16 - n % 16) by omega]
    simp [inside]

/-! ### SLL, SRL, SRA and SRR -/

/-- Settles O36: A is the product by the power of two modulo 65536, bit `j` coming from bit `j - n`. -/
theorem sllForms : Obligations.SllForms := by
  unfold Obligations.SllForms
  refine sll_runsShift.shiftForms fun s v n t result rest => ⟨?_, fun j inside => ?_, rest⟩
  · rw [result, toNat_sll16]
  · rw [result, getLsbD_sll16 v n inside]

/-- Settles O37: A is the unsigned quotient by the power of two, bit `j` coming from bit `j + n`. -/
theorem srlForms : Obligations.SrlForms := by
  unfold Obligations.SrlForms
  refine srl_runsShift.shiftForms fun s v n t result rest => ⟨?_, fun j _ => ?_, rest⟩
  · rw [result, toNat_srl16]
  · rw [result, getLsbD_srl16]

/-- Settles O38: A is the signed quotient rounded down, its top filled with copies of the sign. -/
theorem sraForms : Obligations.SraForms := by
  unfold Obligations.SraForms
  refine sra_runsShift.shiftForms fun s v n t result rest => ⟨?_, fun j inside => ?_, rest⟩
  · rw [result, toInt_sra16]
  · rw [result, getLsbD_sra16 v n inside]

/-- Settles O39: each bit of A is the bit `n` places above it, counted modulo 16. -/
theorem srrForms : Obligations.SrrForms := by
  unfold Obligations.SrrForms
  refine srr_runsShift.shiftForms fun s v n t result rest => ⟨fun j inside => ?_, rest⟩
  rw [result, getLsbD_srr16 v n inside]

end Sys2Proof.Machine
end

section
/-! SUPPORT. SWP (rule R230): A and Ra exchange their values. The two register writes coincide when Ra is A, where both
write the old value of A. -/

namespace Sys2Proof.Machine

/-- The one instruction of major opcode 01001 (rules R81, R230). -/
theorem decodeWords_swp {ir : Word} (op : opField ir = 0b01001) (imm : Word) :
    decodeWords ir imm = .ok (.swp (raField ir)) := by
  simp [decodeWords, op]

/-! ### The exchange of A and a register, before the flags are written -/

/-- A holds the old value of `ra`; where `ra` is A itself, that is the value written back to it. -/
theorem reg_exchange_a (s : State) (ra : Reg) : ((s.setReg .a (s.reg ra)).setReg ra s.a).a = s.reg ra := by
  cases ra <;> rfl

theorem reg_exchange_ra (s : State) (ra : Reg) : ((s.setReg .a (s.reg ra)).setReg ra s.a).reg ra = s.a :=
  reg_setReg_same _ _ _

theorem reg_exchange_other (s : State) {ra r : Reg} (notA : r ≠ .a) (notRa : r ≠ ra) :
    ((s.setReg .a (s.reg ra)).setReg ra s.a).reg r = s.reg r := by
  rw [reg_setReg_other _ _ _ _ notRa, reg_setReg_other _ _ _ _ notA]

/-! ### The flag update after the exchange -/

@[simp] theorem reg_setResultFlags (s : State) (insn : CvInsn) (w : Word) (l : List Word) (r : Reg) :
    (s.setResultFlags insn w l).reg r = s.reg r := by
  cases r <;> rfl

theorem exec_swp_next (ra : Reg) (s : State) :
    exec (.swp ra) s =
      .next (((s.setReg .a (s.reg ra)).setReg ra s.a).setResultFlags .swp (s.reg ra) [s.a, s.reg ra]) := rfl

/-- Settles O40: each register is read through the two writes of the exchange, the flags through the flag update. -/
theorem swpExchanges : Obligations.SwpExchanges := by
  unfold Obligations.SwpExchanges
  refine ⟨fun ir imm op => ?_, fun s ra => ?_⟩
  · rw [decodeWords_swp op, wordRa_eq_raField]
  · have newA := reg_exchange_a s ra
    refine ⟨_, exec_swp_next ra s, newA, ?_, fun r notA notRa => ?_, ?_, ?_, ?_, fun addr => ?_, ?_⟩
    · rw [reg_setResultFlags, reg_exchange_ra]
    · rw [reg_setResultFlags, reg_exchange_other s notA notRa]
    · rw [setResultFlags_pc, setReg_pc, setReg_pc]
    · rw [setResultFlags_a, newA]
      exact nzFrom_flagsOf _ _ _
    · rw [setResultFlags_a, newA]
      exact cvOpen_setResultFlags s _ .swp _ _ (by simp) (by simp)
    · rw [byteAt_setResultFlags, byteAt_setReg, byteAt_setReg]
    · rw [KeepsParams, setResultFlags_params, setReg_params, setReg_params]

end Sys2Proof.Machine
end

section
/-! SUPPORT. The macros that stand for one instruction on A (rules R240, R241, R246, R247): `dec` and `inc` are a
subtraction and an addition of 1, `ldi` and `ldib` the INV of a complement. -/

namespace Sys2Proof.Machine

/-! ### DEC and INC -/

section
variable {a : Word} {f : Flags}

/-- Subtracting 1 borrows only from 0, and leaves the signed range only at its least value. -/
theorem CVOfSub.iff_of_one (cv : CVOfSub a 1 f) : (f.c = false ↔ a = 0x0000) ∧ (f.v = true ↔ a = 0x8000) := by
  obtain ⟨carry, overflow⟩ := cv
  have one : (1 : Word).toInt = 1 := rfl
  constructor
  · rw [← Bool.not_eq_true, carry]
    bv_omega
  · rw [overflow, one, BitVec.toInt_eq_toNat_cond]
    bv_omega

/-- Adding 1 carries only from 0xFFFF, and changes the sign of a non-negative number only at the greatest one. -/
theorem CVOfAdd.iff_of_one (cv : CVOfAdd a 1 (a + 1) f) : (f.c = true ↔ a = 0xFFFF) ∧ (f.v = true ↔ a = 0x7FFF) := by
  obtain ⟨carry, overflow⟩ := cv
  constructor
  · rw [carry]
    bv_omega
  · have sign (w : Word) : w.getLsbD 15 = decide (32768 ≤ w.toNat) := BitVec.msb_eq_getLsbD_last w ▸ w.msb_eq_decide
    rw [overflow, sign, sign, sign, ne_eq, decide_eq_decide, decide_eq_decide]
    bv_omega

end

/-- Settles O57: `dec` is SUB and `inc` is ADD of A and 1, with C and V of an operand 1. -/
theorem decrementAndIncrement : Obligations.DecrementAndIncrement := by
  unfold Obligations.DecrementAndIncrement
  refine ⟨by decide, by decide, fun s => ⟨⟨.subI8 .a 1, rfl, ?_⟩, ⟨.addI8 .a 1, rfl, ?_⟩⟩⟩
  · obtain ⟨t, run, pc, result, nz, cv, rest⟩ := (subForms.2 s .a).1 1
    obtain ⟨borrow, overflow⟩ := CVOfSub.iff_of_one cv
    exact ⟨t, run, result, nz, borrow, overflow, pc, rest⟩
  · obtain ⟨t, run, pc, sum, nz, cv, rest⟩ := (addForms.2 s .a).1 1
    have result : t.a = s.a + 1 := BitVec.eq_of_toNat_eq (sum.trans (BitVec.toNat_add s.a 1).symm)
    obtain ⟨carry, overflow⟩ := CVOfAdd.iff_of_one (result ▸ cv)
    exact ⟨t, run, result, nz, carry, overflow, pc, rest⟩

/-! ### LDI and LDIB -/

/-- INV undoes the complement that `ldi` takes. -/
theorem not16_complement (k : Word) : not16 (~~~k) = k := by
  rw [not16_eq, BitVec.not_not]

/-- The word that `ldib` leaves: the upper byte is all ones, the lower byte is the operand. -/
theorem getLsbD_upperOnes_or_zext16 (v : Byte) {n : Nat} (inside : n < 16) :
    (0xFF00 ||| zext16 v : Word).getLsbD n = (decide (8 ≤ n) || v.getLsbD n) := by
  have upper : ∀ n < 16, (0xFF00 : Word).getLsbD n = decide (8 ≤ n) := by decide
  rw [BitVec.getLsbD_or, upper n inside, zext16, BitVec.getLsbD_setWidth, decide_eq_true inside, Bool.true_and]

/-- The zero-extended complement of a byte, as the assembler computes it from the word. -/
theorem zext16_complement (v : Byte) : zext16 (~~~v) = 255 - zext16 v := by
  simp only [zext16]
  bv_omega

/-- INV of a zero-extended complement sets the upper byte (rule R247, conflict C10). -/
theorem not16_zext16_complement (v : Byte) : not16 (zext16 (~~~v)) = 0xFF00 ||| zext16 v := by
  refine BitVec.eq_of_getLsbD_eq fun n inside => ?_
  rw [getLsbD_upperOnes_or_zext16 v inside, not16_eq, zext16, BitVec.getLsbD_not, BitVec.getLsbD_setWidth,
    BitVec.getLsbD_not]
  rcases Nat.lt_or_ge n 8 with low | high
  · simp [low, inside]
  · simp [high, inside, Nat.not_lt.2 high]

/-- Settles O56: each macro is INV of one operand, and the two complements cancel. -/
theorem loadMacros : Obligations.LoadMacros := by
  unfold Obligations.LoadMacros
  intro s k v
  refine ⟨⟨rfl, .invI16 (~~~k), rfl, ?_⟩, ⟨?_, .invI8 (~~~v), rfl, ?_⟩⟩
  · obtain ⟨t, run, result, pc, nz, cv, only⟩ := unaryToA_completes .inv not16 (.imm16 (~~~k)) s
    have loaded : t.a = k := result.trans (not16_complement k)
    rw [loaded] at nz cv
    exact ⟨t, run, loaded, nz, pc, cv, only⟩
  · exact congrArg (fun w => [0x3800 ||| w]) (zext16_complement v)
  · obtain ⟨t, run, result, pc, ⟨negative, zero⟩, -, only⟩ := unaryToA_completes .inv not16 (.imm8 (~~~v)) s
    have loaded : t.a = 0xFF00 ||| zext16 v := result.trans (not16_zext16_complement v)
    have bit15 : t.a.getLsbD 15 = true := by
      rw [loaded, getLsbD_upperOnes_or_zext16 v (by decide)]
      rfl
    have nonzero : t.a ≠ 0 := fun h => by simp [h] at bit15
    exact ⟨t, run, loaded, negative.2 bit15, Bool.eq_false_iff.2 (mt zero.1 nonzero), pc, only⟩

end Sys2Proof.Machine
end

section
/-! SUPPORT. The end of a run under fuel (rule R265). `runToHalt` looks for a `Halted` state before each step and
`core.run` counts steps; what ties them is the first `Halted` state at a number of steps, which both find step by step. -/

namespace Sys2Proof.Machine

/-! ### One more step of a run -/

theorem core_run_succ_next_iff (s t : State) (k : Nat) :
    core.run (k + 1) s = .next t ↔ ∃ u, step s = .next u ∧ core.run k u = .next t := by
  have unfolded := Host.Core.run.eq_2 core s k
  have stepped : core.step s = step s := rfl
  rw [unfolded, stepped]
  cases step s <;> simp

/-- A run whose start is not `Halted` has to make its first step before it can end in a `Halted` state. -/
theorem runToHalt_succ_eq_halted_iff {s : State} (running : halted s = false) (fuel : Nat) (t : State) :
    runToHalt (fuel + 1) s = .halted t ↔ ∃ u, step s = .next u ∧ runToHalt fuel u = .halted t := by
  rw [runToHalt, if_neg (by rw [running]; decide)]
  cases step s <;> simp

/-! ### The first `Halted` state -/

/-- The core reaches `t` in `k` steps, and `t` is the first `Halted` state on the way (rule R265). -/
def HaltsFirstAt (k : Nat) (s t : State) : Prop :=
  core.run k s = .next t ∧ halted t = true ∧ ∀ j < k, ∃ u, core.run j s = .next u ∧ halted u = false

theorem haltsFirstAt_zero_iff (s t : State) : HaltsFirstAt 0 s t ↔ s = t ∧ halted s = true := by
  constructor
  · rintro ⟨here, stopped, -⟩
    obtain rfl := Host.Outcome.next.inj here
    exact ⟨rfl, stopped⟩
  · rintro ⟨rfl, stopped⟩
    exact ⟨core_run_zero s, stopped, fun j before => absurd before j.not_lt_zero⟩

theorem haltsFirstAt_succ_iff (k : Nat) (s t : State) :
    HaltsFirstAt (k + 1) s t ↔ halted s = false ∧ ∃ u, step s = .next u ∧ HaltsFirstAt k u t := by
  constructor
  · rintro ⟨reached, stopped, earlier⟩
    obtain ⟨u, first, rest⟩ := (core_run_succ_next_iff s t k).1 reached
    obtain ⟨start, here, running⟩ := earlier 0 k.succ_pos
    obtain rfl := Host.Outcome.next.inj here
    refine ⟨running, u, first, rest, stopped, fun j before => ?_⟩
    rw [← core_run_succ_of_next s u j first]
    exact earlier (j + 1) (Nat.succ_lt_succ before)
  · rintro ⟨running, u, first, rest, stopped, earlier⟩
    refine ⟨(core_run_succ_of_next s u k first).trans rest, stopped, fun j before => ?_⟩
    cases j with
    | zero => exact ⟨s, core_run_zero s, running⟩
    | succ j =>
      rw [core_run_succ_of_next s u j first]
      exact earlier j (Nat.lt_of_succ_lt_succ before)

/-- A `Halted` state is its own first `Halted` state, at no steps. -/
theorem haltsFirstAt_iff_of_halted {s : State} (stopped : halted s = true) (k : Nat) (t : State) :
    HaltsFirstAt k s t ↔ k = 0 ∧ s = t := by
  cases k with
  | zero => simp [haltsFirstAt_zero_iff, stopped]
  | succ k => simp [haltsFirstAt_succ_iff, stopped]

/-- Within `fuel + 1` steps of a state that is not `Halted` means within `fuel` steps of the next one. -/
theorem exists_haltsFirstAt_succ_iff {s : State} (running : halted s = false) (fuel : Nat) (t : State) :
    (∃ k ≤ fuel + 1, HaltsFirstAt k s t) ↔ ∃ u, step s = .next u ∧ ∃ k ≤ fuel, HaltsFirstAt k u t := by
  constructor
  · rintro ⟨k, within, ends⟩
    cases k with
    | zero => simp [haltsFirstAt_zero_iff, running] at ends
    | succ k =>
      obtain ⟨-, u, first, rest⟩ := (haltsFirstAt_succ_iff k s t).1 ends
      exact ⟨u, first, k, Nat.le_of_succ_le_succ within, rest⟩
  · rintro ⟨u, first, k, within, rest⟩
    exact ⟨k + 1, Nat.succ_le_succ within, (haltsFirstAt_succ_iff k s t).2 ⟨running, u, first, rest⟩⟩

/-- Rule R265: fuel bounds the search for the first `Halted` state and has no other effect on where a run ends. -/
theorem runToHalt_eq_halted_iff (fuel : Nat) (s t : State) :
    runToHalt fuel s = .halted t ↔ ∃ k ≤ fuel, HaltsFirstAt k s t := by
  induction fuel generalizing s with
  | zero => cases stopped : halted s <;> simp [runToHalt, haltsFirstAt_zero_iff, stopped]
  | succ fuel ih =>
    cases stopped : halted s with
    | true => simp [runToHalt_of_halted stopped, haltsFirstAt_iff_of_halted stopped]
    | false => simp only [runToHalt_succ_eq_halted_iff stopped, exists_haltsFirstAt_succ_iff stopped, ih]

/-- Settles O13: a run ends at the first `Halted` state exactly when that is within its fuel, and more fuel keeps it
within. -/
theorem runEndsAtFirstHalt : Obligations.RunEndsAtFirstHalt := by
  unfold Obligations.RunEndsAtFirstHalt
  intro fuel s t ended
  have found := (runToHalt_eq_halted_iff fuel s t).1 ended
  refine ⟨found, fun more => (runToHalt_eq_halted_iff (fuel + more) s t).2 ?_⟩
  obtain ⟨k, within, first⟩ := found
  exact ⟨k, Nat.le_add_right_of_le within, first⟩

end Sys2Proof.Machine
end
